-- ==== Sys2Proof/Word.lean ====
section
/-! DEFINITION. The words of the block: the widths the spec gives its values (00_scope.md R10). -/

namespace Sys2Proof

/-- The event word `ev[3:0]` of the operation port (30_encoding.md R110). -/
abbrev EventWord := BitVec 4

/-- A value of the monotonic timer (60_exceptions.md R270). -/
abbrev Ticks := BitVec 32

/-- A frame of 128 one-bit cells; cell `i`, the `i`-th bit after the header, is bit `i` (00_scope.md R10). -/
abbrev Frame := BitVec 128

/-- A byte the formatter assembles (20_memory.md R60). -/
abbrev Byte := BitVec 8

/-- An EM4100 nibble (00_scope.md R12). -/
abbrev Nibble := BitVec 4

/-- A checksum value (42_crc16.md R182). -/
abbrev Crc := BitVec 16

end Sys2Proof
end

