-- ==== Sys2Proof/Config.lean ====
section
/-! DEFINITION. What an instance fixes for its whole life, the constants of each build, and the open parameters
(00_scope.md R7 to R9). -/

namespace Sys2Proof

/-- `PROTOCOL`, the static parameter of an instance (00_scope.md R7). -/
inductive Protocol where
  | fdxb
  | em4100
  deriving DecidableEq, Repr

/-- `CLK_EDGE`, the open parameter: which edge of the clock line samples (00_scope.md R9, 92 D2). Only the
pin-level wrapper of Machine/Ports.lean takes it, as an argument. -/
inductive ClkEdge where
  | rising
  | falling
  | both
  deriving DecidableEq, Repr

/-- The build `State.reset` and `decodeTableWord` speak of. DESIGN CHOICE, log entry 1: the host's fixed names
have no argument for `PROTOCOL`; `State.resetOf` gives either build. -/
def Config.resetProtocol : Protocol := .fdxb

/-- `TICK_HZ`, the open parameter: the timer's rate. No rule depends on it (00_scope.md R9, 92 D3), log entry 14. -/
opaque Config.tickHz : Nat

/-- `HEADER_LEN`: the value of `header_progress` at which the header is confirmed (00_scope.md R8). -/
def Config.headerLen : Protocol → Nat
  | .fdxb => 11
  | .em4100 => 9

/-- `FRAME_BITS`: the bits counted after the header before the frame completes (00_scope.md R8). -/
def Config.frameBits : Protocol → Nat
  | .fdxb => 128
  | .em4100 => 55

/-- The `SAMPLE` steps from the first header bit to `FRAME_COMPLETE`: 139 in an FDXB build, 64 in an EM4100 build
(40_acquisition_fdxb.md R138 (d), 41_acquisition_em4100.md R162 (c)). -/
def Config.frameSamples (p : Protocol) : Nat := Config.headerLen p + Config.frameBits p

/-- The polynomial of the block's checksum (00_scope.md R8, 42_crc16.md R180). -/
def Config.crcPoly : Crc := 0x8408#16

/-- The seed of the block's checksum (00_scope.md R8, 42_crc16.md R180). -/
def Config.crcSeed : Crc := 0x0000#16

end Sys2Proof
end

