-- ==== Sys2Proof/Syntax.lean ====
section
/-! DEFINITION. The operations of the port, one constructor per row of spec/opcode_table.json (30_encoding.md R111). -/

namespace Sys2Proof

/-- An operation of the port. `SAMPLE` has one row per build, with the same event words; `d` is the sampled
data-line level, high = `true` (00_scope.md R10). A reserved row keeps the bits the table leaves free in it, so
that no event word is lost. -/
inductive Instr where
  /-- `NOP`, an idle step (44_session.md R232). -/
  | nop
  /-- `SAMPLE d` of an FDXB build (40_acquisition_fdxb.md R131). -/
  | sampleFdxb (d : Bool)
  /-- `SAMPLE d` of an EM4100 build (41_acquisition_em4100.md R151). -/
  | sampleEm4100 (d : Bool)
  /-- `ACTIVATE` (44_session.md R222). -/
  | activate
  /-- `DEACTIVATE` (44_session.md R224). -/
  | deactivate
  /-- `FORMAT` (43_formatter.md R190). -/
  | format
  /-- The reserved word `0x1` (30_encoding.md R113). -/
  | reserved1
  /-- The reserved word `0x5` (30_encoding.md R113). -/
  | reserved5
  /-- The reserved word `0x7` (30_encoding.md R113). -/
  | reserved7
  /-- The reserved word `0x9` (30_encoding.md R113). -/
  | reserved9
  /-- The reserved words `0xA`, `0xB`; `x = ev[0]` (30_encoding.md R113). -/
  | reservedAB (x : Bool)
  /-- The reserved words `0xC` to `0xF`; `x = ev[1:0]` (30_encoding.md R113). -/
  | reservedCF (x : BitVec 2)
  deriving DecidableEq, Repr

end Sys2Proof
end

