-- ==== Sys2Proof/WellFormed.lean ====
section
/-! DEFINITION. Which operations exist in a build, and which requester may issue them. -/

namespace Sys2Proof

/-- The operation exists in a build of protocol `p`: each `SAMPLE` row belongs to one build, every other row to
both (00_scope.md R7, 10_state.md R46). -/
def Instr.wf (p : Protocol) : Instr → Bool
  | .nop => true
  | .sampleFdxb _ => p == .fdxb
  | .sampleEm4100 _ => p == .em4100
  | .activate => true
  | .deactivate => true
  | .format => true
  | .reserved1 => true
  | .reserved5 => true
  | .reserved7 => true
  | .reserved9 => true
  | .reservedAB _ => true
  | .reservedCF _ => true

/-- The host may issue the operation: everything but `SAMPLE`, which is the edge detector's (60_exceptions.md R272,
70_reset_and_hazards.md R314). -/
def Instr.hostMay : Instr → Bool
  | .nop => true
  | .sampleFdxb _ => false
  | .sampleEm4100 _ => false
  | .activate => true
  | .deactivate => true
  | .format => true
  | .reserved1 => true
  | .reserved5 => true
  | .reserved7 => true
  | .reserved9 => true
  | .reservedAB _ => true
  | .reservedCF _ => true

/-- The operation is one of the reserved event words (30_encoding.md R113). -/
def Instr.isReserved : Instr → Bool
  | .nop => false
  | .sampleFdxb _ => false
  | .sampleEm4100 _ => false
  | .activate => false
  | .deactivate => false
  | .format => false
  | .reserved1 => true
  | .reserved5 => true
  | .reserved7 => true
  | .reserved9 => true
  | .reservedAB _ => true
  | .reservedCF _ => true

end Sys2Proof
end

