-- ==== Sys2Proof/Decode.lean ====
section
/-! DEFINITION. The event word: decoding, total on all 16 words, and encoding (30_encoding.md R110, R111, R113). -/

namespace Sys2Proof

/-- The field `op = ev[3:1]` (30_encoding.md R110). -/
def opField (ev : EventWord) : BitVec 3 := ev.extractLsb' 1 3

/-- The field `d = ev[0]` (30_encoding.md R110). -/
def dField (ev : EventWord) : Bool := ev.getLsbD 0

/-- `SAMPLE d` as the build of protocol `p` has it (10_state.md R46). -/
def sampleOf (p : Protocol) (d : Bool) : Instr :=
  match p with
  | .fdxb => .sampleFdxb d
  | .em4100 => .sampleEm4100 d

/-- The operation an event word asks a build of protocol `p` for (30_encoding.md R111). Every word has one
(R113). -/
def decode (p : Protocol) (ev : EventWord) : Instr :=
  match (opField ev).toNat, dField ev with
  | 0, false => .nop
  | 0, true => .reserved1
  | 1, d => sampleOf p d
  | 2, false => .activate
  | 2, true => .reserved5
  | 3, false => .deactivate
  | 3, true => .reserved7
  | 4, false => .format
  | 4, true => .reserved9
  | 5, x => .reservedAB x
  | _, _ => .reservedCF (ev.extractLsb' 0 2)

/-- An event word from its fields (30_encoding.md R110). -/
def eventWord (op : BitVec 3) (d : Bool) : EventWord := op ++ BitVec.ofBool d

/-- The event word of an operation (30_encoding.md R111). -/
def encode : Instr → EventWord
  | .nop => eventWord 0b000#3 false
  | .sampleFdxb d => eventWord 0b001#3 d
  | .sampleEm4100 d => eventWord 0b001#3 d
  | .activate => eventWord 0b010#3 false
  | .deactivate => eventWord 0b011#3 false
  | .format => eventWord 0b100#3 false
  | .reserved1 => eventWord 0b000#3 true
  | .reserved5 => eventWord 0b010#3 true
  | .reserved7 => eventWord 0b011#3 true
  | .reserved9 => eventWord 0b100#3 true
  | .reservedAB x => eventWord 0b101#3 x
  | .reservedCF x => 0b11#2 ++ x

/-- Why a number is not read as an event word. -/
inductive DecodeError where
  /-- The number does not fit the port's four bits (30_encoding.md R110). Raised by `decodeNumber` alone; safe: the
  port cannot carry such a value. -/
  | widerThanThePort
  deriving DecidableEq, Repr

/-- Reads a number as an event word and decodes it; a number the four-bit port cannot carry is rejected by name. -/
def decodeNumber (p : Protocol) (w : Nat) : Except DecodeError Instr :=
  if w < 16 then .ok (decode p (BitVec.ofNat 4 w)) else .error .widerThanThePort

/-- The host's view of the decoder on a table word. An event word has four bits, all of them the table's, so
`nbits` (the row's width in whole bytes) adds nothing. The build is that of `State.reset`: the two `SAMPLE` rows
share their words, and a word alone cannot name the EM4100 row (log entries 1, 11). -/
def decodeTableWord (_nbits w : Nat) : Option Instr :=
  match decodeNumber Config.resetProtocol w with
  | .ok i => some i
  | .error _ => none

/-- A row of spec/opcode_table.json: the words `w` with `w &&& mask = bits`. -/
structure TableRow where
  mask : EventWord
  bits : EventWord
  deriving DecidableEq, Repr

/-- The table's row of each operation, copied from its `mask` and `match` columns. -/
def tableRow : Instr → TableRow
  | .nop => ⟨0xF#4, 0x0#4⟩
  | .sampleFdxb _ => ⟨0xE#4, 0x2#4⟩
  | .sampleEm4100 _ => ⟨0xE#4, 0x2#4⟩
  | .activate => ⟨0xF#4, 0x4#4⟩
  | .deactivate => ⟨0xF#4, 0x6#4⟩
  | .format => ⟨0xF#4, 0x8#4⟩
  | .reserved1 => ⟨0xF#4, 0x1#4⟩
  | .reserved5 => ⟨0xF#4, 0x5#4⟩
  | .reserved7 => ⟨0xF#4, 0x7#4⟩
  | .reserved9 => ⟨0xF#4, 0x9#4⟩
  | .reservedAB _ => ⟨0xE#4, 0xA#4⟩
  | .reservedCF _ => ⟨0xC#4, 0xC#4⟩

end Sys2Proof
end

