-- ==== Sys2Proof/Machine/State.lean ====
section
/-! DEFINITION. The state of one TAGDEC instance, as plain data, and the state after reset (10_state.md R20 to R50,
70_reset_and_hazards.md R290). -/

namespace Sys2Proof.Machine

/-- `session` (10_state.md R40). -/
inductive Session where
  | idle
  | active
  deriving DecidableEq, Repr

/-- `result`, the status of a step, by the names of 30_encoding.md R112; `Status.code` in Machine/Flags.lean gives
the numbers. -/
inductive Status where
  | ok
  | frameComplete
  | checksumRetry
  | recordOk
  | checksumFailure
  | noFrame
  | sessionBusy
  | badOp
  | ignored
  deriving DecidableEq, Repr

/-- `rec`, the TagRecord of an FDXB build (10_state.md R34). `rec.checksum_valid` is not stored: it reads as
`tag_valid` (R36, `State.checksumValid` in Machine/Flags.lean). -/
structure TagRecord where
  tagId : BitVec 38
  countryCode : BitVec 10
  dataBlockPresent : Bool
  isAnimalApplication : Bool
  extraData : Vector Byte 3
  deriving DecidableEq, Repr

/-- The record at reset: every field 0 (10_state.md R34). -/
def TagRecord.zero : TagRecord where
  tagId := 0#38
  countryCode := 0#10
  dataBlockPresent := false
  isAnimalApplication := false
  extraData := #v[0#8, 0#8, 0#8]

/-- The report port of a `DEACTIVATE` step (44_session.md R229). -/
structure Report where
  valid : Bool
  tag : BitVec 64
  duration : Ticks
  deriving DecidableEq, Repr

/-- The input ports of one step (10_state.md R47). -/
structure PortInput where
  ev : EventWord
  now : Ticks
  rst : Bool
  deriving DecidableEq, Repr

/-- One TAGDEC instance. The first groups are 10_state.md R50, element by element; an element the build does not
have keeps its reset value (R20). The last group is not the spec's state: the constant `PROTOCOL`, and the ports of
the step, which the host's step function has nowhere else to hold (log entries 1, 2, 4). -/
structure State where
  /-- `hp`, header_progress (R22). -/
  hp : BitVec 4
  /-- `bc`, bit_cursor (R23). -/
  bc : BitVec 8
  /-- `np`, nibble_progress, EM4100 (R24). -/
  np : BitVec 3
  /-- `ni`, nibble_index, EM4100 (R25). -/
  ni : BitVec 4
  /-- `grp`, the group in progress, EM4100 (R26). -/
  grp : Nibble
  /-- `raw[0..127]`, FDXB (R30). -/
  raw : Frame
  /-- `nib[0..9]`, EM4100 (R32). -/
  nib : Vector Nibble 10
  /-- `fo[0..127]`, the mailbox, FDXB (R31). -/
  fo : Frame
  /-- `frame_valid` (R31). -/
  frameValid : Bool
  /-- `rec`, FDXB (R34). -/
  record : TagRecord
  /-- `em_id`, EM4100 (R33). -/
  emId : BitVec 40
  /-- `tag_valid` (R35). -/
  tagValid : Bool
  /-- `session` (R40). -/
  session : Session
  /-- `field_en` (R41). -/
  fieldEn : Bool
  /-- `irq_en` (R42). -/
  irqEn : Bool
  /-- `start_time` (R43). -/
  startTime : Ticks
  /-- `end_time` (R44). -/
  endTime : Ticks
  /-- `duration` (R45). -/
  duration : Ticks
  /-- `PROTOCOL`, the constant of the instance (R46); no step changes it. -/
  protocol : Protocol
  /-- The input ports of the step being taken (R47). -/
  port : PortInput
  /-- What the environment will present in the coming steps, next first (70_reset_and_hazards.md R295, R314). -/
  inputs : List PortInput
  /-- The output port `result` of the step just taken; none where no operation was performed in it (R38). -/
  result : Option Status
  /-- The output port `report` of the step just taken, present only if it was a `DEACTIVATE` (R48). -/
  report : Option Report
  deriving DecidableEq, Repr

/-- Why the machine stops with a fault. It has no constructor: no exception of the block stops it and no operation
leaves it stuck (60_exceptions.md R250, 93_implementation_defined.md section 1). -/
inductive Fault where
  deriving DecidableEq, Repr

/-- Why a step has no meaning. -/
inductive Refusal where
  /-- The instruction has no meaning yet. Raised by an arm of `exec` alone; safe. No arm raises it: every
  instruction has its meaning. -/
  | notModelled (mnemonic : String)
  deriving DecidableEq, Repr

/-- The state right after reset of a build of protocol `p`: every element 0, `session` Idle (70_reset_and_hazards.md
R290, 10_state.md R50). The ports and the input list are the model's own (log entries 2, 4). -/
def State.resetOf (p : Protocol) : State where
  hp := 0#4
  bc := 0#8
  np := 0#3
  ni := 0#4
  grp := 0#4
  raw := 0#128
  nib := #v[0#4, 0#4, 0#4, 0#4, 0#4, 0#4, 0#4, 0#4, 0#4, 0#4]
  fo := 0#128
  frameValid := false
  record := TagRecord.zero
  emId := 0#40
  tagValid := false
  session := .idle
  fieldEn := false
  irqEn := false
  startTime := 0#32
  endTime := 0#32
  duration := 0#32
  protocol := p
  port := ⟨0#4, 0#32, false⟩
  inputs := []
  result := none
  report := none

/-- The state right after reset (70_reset_and_hazards.md R290), of the build of log entry 1. -/
def State.reset : State := State.resetOf Config.resetProtocol

end Sys2Proof.Machine
end

