-- ==== Sys2Proof/Machine/Operands.lean ====
section
/-! DEFINITION. The operand forms: single cells and byte reads of a frame, and every value the block assembles from
bits (00_scope.md R11, 20_memory.md R60 to R68, 30_encoding.md R95 to R102). -/

namespace Sys2Proof.Machine

/-- `v` with bit `i` set to `d`; a place outside the width changes nothing. `MemWrite(i, 1, d)` on a frame
(00_scope.md R11). -/
def setBit {w : Nat} (v : BitVec w) (i : Nat) (d : Bool) : BitVec w :=
  if d then v ||| (1#w <<< i) else v &&& ~~~(1#w <<< i)

/-- `MemRead(addr, 8)`: eight consecutive cells of a frame, the first the least significant (00_scope.md R11,
20_memory.md R61). -/
def memRead8 (f : Frame) (addr : Nat) : Byte := f.extractLsb' addr 8

/-- `byte[k]`, the data bits of group `k` (30_encoding.md R95). -/
def frameByte (f : Frame) (k : Nat) : Byte := memRead8 f (9 * k)

/-- `byte[0..7]`, in index order (43_formatter.md R191). -/
def frameBytes (f : Frame) : List Byte := (List.range 8).map (frameByte f)

/-- `crc_rx`, the transmitted checksum: `crc_lo | (crc_hi << 8)` (30_encoding.md R96). -/
def crcRx (f : Frame) : Crc := (memRead8 f 72).setWidth 16 ||| ((memRead8 f 81).setWidth 16 <<< 8)

/-- `extra_data[j]` (30_encoding.md R97). -/
def extraByte (f : Frame) (j : Nat) : Byte := memRead8 f (90 + 9 * j)

/-- `tag_id`, every shift done at 38 bits (30_encoding.md R98). -/
def tagIdOf (f : Frame) : BitVec 38 :=
  (frameByte f 0).setWidth 38
    ||| ((frameByte f 1).setWidth 38 <<< 8)
    ||| ((frameByte f 2).setWidth 38 <<< 16)
    ||| ((frameByte f 3).setWidth 38 <<< 24)
    ||| ((frameByte f 4 &&& 0x3F#8).setWidth 38 <<< 32)

/-- `country_code`, the left shift done at 10 bits; no range check (30_encoding.md R99). -/
def countryCodeOf (f : Frame) : BitVec 10 :=
  ((frameByte f 5).setWidth 10 <<< 2) ||| ((frameByte f 4 &&& 0xC0#8) >>> 6).setWidth 10

/-- The record a frame decodes to (43_formatter.md R196, R198; 30_encoding.md R97 to R100). -/
def recordOf (f : Frame) : TagRecord where
  tagId := tagIdOf f
  countryCode := countryCodeOf f
  dataBlockPresent := (frameByte f 6).getLsbD 0
  isAnimalApplication := (frameByte f 7).getLsbD 7
  extraData := #v[extraByte f 0, extraByte f 1, extraByte f 2]

/-- `nib[j] << 4 (9 - j)`, the place of nibble `j` in the identifier (30_encoding.md R102). -/
def nibblePlace (nib : Vector Nibble 10) (j : Fin 10) : BitVec 40 := nib[j].setWidth 40 <<< (4 * (9 - j.val))

/-- `em_id`, the sum of the ten nibbles at their places, which are disjoint, so that nibble 0 is the most significant
(10_state.md R33, 30_encoding.md R102, 42_crc16.md R186). -/
def emIdOf (nib : Vector Nibble 10) : BitVec 40 :=
  nibblePlace nib 0 ||| nibblePlace nib 1 ||| nibblePlace nib 2 ||| nibblePlace nib 3 ||| nibblePlace nib 4
    ||| nibblePlace nib 5 ||| nibblePlace nib 6 ||| nibblePlace nib 7 ||| nibblePlace nib 8 ||| nibblePlace nib 9

/-- `nib` with cell `j` set to `v` (41_acquisition_em4100.md R155). -/
def setNibble (nib : Vector Nibble 10) (j : Nat) (v : Nibble) : Vector Nibble 10 := nib.setIfInBounds j v

/-- `nib[0..9] <- 0` (10_state.md R32). -/
def zeroNibbles : Vector Nibble 10 := #v[0#4, 0#4, 0#4, 0#4, 0#4, 0#4, 0#4, 0#4, 0#4, 0#4]

/-- `tag64`: the identity of the build, zero-extended; 0 while no identity was decoded (44_session.md R229). -/
def tag64 (s : State) : BitVec 64 :=
  if s.tagValid then
    match s.protocol with
    | .fdxb => s.record.tagId.setWidth 64
    | .em4100 => s.emId.setWidth 64
  else 0#64

end Sys2Proof.Machine
end

