-- ==== Sys2Proof/Machine/Ops.lean ====
section
/-! DEFINITION. The named operations the meanings share: answering, the multi-element updates, taking an exception,
the ports of a step, and reset. -/

namespace Sys2Proof.Machine

/-- Ends a step with status `r` on the `result` port and nothing on the `report` port (00_scope.md R11, 10_state.md
R38, R48). -/
def State.answer (r : Status) (s : State) : State := { s with result := some r, report := none }

/-- The whole decoder state to 0: the counters, the group, `raw` and `nib` (44_session.md R224, R225; 92 D19). -/
def State.clearDecoder (s : State) : State :=
  { s with hp := 0#4, bc := 0#8, np := 0#3, ni := 0#4, grp := 0#4, raw := 0#128, nib := zeroNibbles }

/-- A completed frame enters the mailbox, replacing what was there (20_memory.md R71, R73). -/
def State.fillMailbox (f : Frame) (s : State) : State := { s with fo := f, frameValid := true }

/-- The mailbox is consumed and cleared (43_formatter.md R192, 92 D18). -/
def State.emptyMailbox (s : State) : State := { s with fo := 0#128, frameValid := false }

/-- `end_time <- now` (44_session.md R228, 92 D31). -/
def State.latchEnd (s : State) : State := { s with endTime := s.port.now }

/-- A decoded record becomes the last decoded identity of an FDXB build (43_formatter.md R197). -/
def State.storeRecord (r : TagRecord) (s : State) : State := { s with record := r, tagValid := true }

/-- A decoded identifier becomes the last decoded identity of an EM4100 build (41_acquisition_em4100.md R158,
R159). -/
def State.storeEmId (id : BitVec 40) (s : State) : State := { s with emId := id, tagValid := true }

/-- The exceptions (60_exceptions.md R251 to R257). -/
inductive Exc where
  | framingMismatch
  | nibbleParity
  | crcMismatch
  | sessionMisuse
  | noFrame
  | badOp
  | ignored
  deriving DecidableEq, Repr

/-- The code an exception returns (60_exceptions.md R258). -/
def Exc.status : Exc → Status
  | .framingMismatch => .ok
  | .nibbleParity => .checksumRetry
  | .crcMismatch => .checksumFailure
  | .sessionMisuse => .sessionBusy
  | .noFrame => .noFrame
  | .badOp => .badOp
  | .ignored => .ignored

/-- The state effect of an exception (60_exceptions.md R258). FramingMismatch writes `hp` alone, as R131, R151 and
R251 do; the other counters are 0 then (10_state.md R27), log entry 8. -/
def Exc.effect (e : Exc) (s : State) : State :=
  match e with
  | .framingMismatch => { s with hp := 0#4 }
  | .nibbleParity => { s with hp := 0#4, bc := 0#8, np := 0#3, ni := 0#4, grp := 0#4, nib := zeroNibbles }
  | .crcMismatch => s.emptyMailbox
  | .sessionMisuse => s
  | .noFrame => s
  | .badOp => s
  | .ignored => s

/-- Taking an exception: its state effect and its code, in the step that detects it; nothing is saved and control
goes nowhere (00_scope.md R11, 60_exceptions.md R267). There is no return from it (R268). -/
def State.raise (e : Exc) (s : State) : State := (e.effect s).answer e.status

/-- The environment presents `p` before everything it has in store: the very next step takes it. -/
def State.present (p : PortInput) (s : State) : State := { s with inputs := p :: s.inputs }

/-- What the ports carry when the environment presents nothing: the event word of `NOP`, the timer input as it was,
no reset (44_session.md R232; log entry 3). -/
def idleInput (now : Ticks) : PortInput := ⟨0x0#4, now, false⟩

/-- The input ports take the next thing the environment presents (10_state.md R47, 70_reset_and_hazards.md R295). -/
def State.fetch (s : State) : State :=
  match s.inputs with
  | [] => { s with port := idleInput s.port.now }
  | p :: rest => { s with port := p, inputs := rest }

/-- A step in which `rst` is asserted: every element to its reset value; `PROTOCOL` stays, and the ports and the
environment are not the block's to reset (70_reset_and_hazards.md R290; log entry 5). -/
def State.resetStep (s : State) : State :=
  { State.resetOf s.protocol with port := s.port, inputs := s.inputs }

/-- The operation the ports ask for in this step (30_encoding.md R110, R111). -/
def State.current (s : State) : Instr := decode s.protocol s.port.ev

/-- What `withFetchWord` presents: the word's four bits, the timer input as it is, no reset (log entry 11). -/
def wordInput (w : Nat) (s : State) : PortInput := ⟨BitVec.ofNat 4 w, s.port.now, false⟩

end Sys2Proof.Machine
end

