-- ==== Sys2Proof/Machine/Controller.lean ====
section
/-! DEFINITION. `ACTIVATE`, `DEACTIVATE` and `NOP`: the reader session controller (44_session.md). -/

namespace Sys2Proof.Machine

/-- Opens a session: field and interrupt on, `start_time <- now`, Active (44_session.md R222). -/
def State.openSession (s : State) : State :=
  { s with fieldEn := true, startTime := s.port.now, irqEn := true, session := .active }

/-- `ACTIVATE` (44_session.md R222); while Active it is SessionMisuse (R223). -/
def State.activate (s : State) : State :=
  if s.session = .active then s.raise .sessionMisuse else s.openSession.answer .ok

/-- `(end_time - start_time) mod 2^32` (44_session.md R227). -/
def State.elapsed (s : State) : Ticks := s.endTime - s.startTime

/-- What `DEACTIVATE` puts on the report port (44_session.md R229). -/
def State.reportNow (s : State) : Report := ⟨s.tagValid, tag64 s, s.elapsed⟩

/-- Closes the session from either state: field and interrupt off, Idle, the decoder state to 0, `duration` computed
(44_session.md R224, R225). -/
def State.closeSession (s : State) : State :=
  { s.clearDecoder with fieldEn := false, irqEn := false, session := .idle, duration := s.elapsed }

/-- `DEACTIVATE` (44_session.md R224), with its report (R229). -/
def State.deactivate (s : State) : State :=
  { s.closeSession.answer .ok with report := some s.reportNow }

/-- The meaning of `ACTIVATE` (44_session.md R222). -/
def execActivate (s : State) : Host.Outcome State Fault Refusal := .next s.activate

/-- The meaning of `DEACTIVATE` (44_session.md R224). -/
def execDeactivate (s : State) : Host.Outcome State Fault Refusal := .next s.deactivate

/-- The meaning of `NOP`: it answers OK and touches nothing (44_session.md R232). -/
def execNop (s : State) : Host.Outcome State Fault Refusal := .next (s.answer .ok)

end Sys2Proof.Machine
end

