-- ==== Sys2Proof/Machine/Crc.lean ====
section
/-! DEFINITION. The CRC-16 primitive (42_crc16.md R180 to R182). -/

namespace Sys2Proof.Machine

/-- One shift: the low bit leaves, zero enters at the top, and the polynomial is XORed in if the bit that left was 1
(42_crc16.md R181). -/
def crcShift (poly c : Crc) : Crc := if c.getLsbD 0 then (c >>> 1) ^^^ poly else c >>> 1

/-- `n` shifts. -/
def crcShifts (poly : Crc) : Nat → Crc → Crc
  | 0, c => c
  | n + 1, c => crcShifts poly n (crcShift poly c)

/-- One byte: XORed into the low eight bits, then eight shifts (42_crc16.md R181, R182). -/
def crcByte (poly c : Crc) (b : Byte) : Crc := crcShifts poly 8 (c ^^^ b.setWidth 16)

/-- `crc16(bytes, poly, seed)`; the running value is the result (42_crc16.md R181). -/
def crc16 (bytes : List Byte) (poly seed : Crc) : Crc := bytes.foldl (crcByte poly) seed

end Sys2Proof.Machine
end

