-- ==== Sys2Proof/Machine/Flags.lean ====
section
/-! DEFINITION. The one-bit conditions the operations test, the derived flag `rec.checksum_valid`, and the numbers
of the status codes (10_state.md R36, R38; 30_encoding.md R112). -/

namespace Sys2Proof.Machine

/-- `xor4(g)`, the even parity of a nibble (00_scope.md R11). -/
def xor4 (g : Nibble) : Bool := g.getLsbD 3 ^^ g.getLsbD 2 ^^ g.getLsbD 1 ^^ g.getLsbD 0

/-- The formatter's check of a frame: `crc16(byte[0..7]) = crc_rx` (43_formatter.md R194). -/
def crcMatches (f : Frame) : Bool := crc16 (frameBytes f) Config.crcPoly Config.crcSeed == crcRx f

/-- `rec.checksum_valid`: reads as `tag_valid` (10_state.md R36). -/
def State.checksumValid (s : State) : Bool := s.tagValid

/-- The numeric status code (30_encoding.md R112). -/
def Status.code : Status → BitVec 4
  | .ok => 0
  | .frameComplete => 1
  | .checksumRetry => 2
  | .recordOk => 3
  | .checksumFailure => 4
  | .noFrame => 5
  | .sessionBusy => 6
  | .badOp => 7
  | .ignored => 8

end Sys2Proof.Machine
end

