-- ==== Sys2Proof/Machine/Em4100.lean ====
section
/-! DEFINITION. `SAMPLE` of an EM4100 build: header match, nibble parity, ten-nibble identifier
(41_acquisition_em4100.md). -/

namespace Sys2Proof.Machine

/-- A data bit of a group: `grp[3 - np] <- d`, `np <- np + 1` (41_acquisition_em4100.md R154). -/
def State.storeEmBit (d : Bool) (s : State) : State :=
  { s with grp := setBit s.grp (3 - s.np.toNat) d, np := s.np + 1#3 }

/-- A parity bit that agrees: `nib[ni] <- grp`, `ni <- ni + 1`, the group's counters to 0 (41_acquisition_em4100.md
R155). -/
def State.storeNibble (s : State) : State :=
  { s with nib := setNibble s.nib s.ni.toNat s.grp, ni := s.ni + 1#4, np := 0#3, grp := 0#4 }

/-- The completing step: the end time is latched, the nibbles become the identifier, and the decoder state returns to
0 (41_acquisition_em4100.md R158). -/
def State.completeEm (s : State) : State :=
  { (s.latchEnd.storeEmId (emIdOf s.nib)) with
    hp := 0#4, bc := 0#8, np := 0#3, ni := 0#4, grp := 0#4, nib := zeroNibbles }

/-- The count of payload bits, `bc' = bc + 1`, and the completion test (41_acquisition_em4100.md R151, R158). -/
def State.countEmBit (s : State) : State :=
  if s.bc.toNat + 1 = 55 then s.completeEm.answer .frameComplete else { s with bc := s.bc + 1#8 }.answer .ok

/-- The data phase: a data bit (R154), a parity bit (R155, R156) or one of the trailing bits, which is only counted
(41_acquisition_em4100.md R157). -/
def State.takeEmBit (d : Bool) (s : State) : State :=
  if s.ni < 10#4 then
    if s.np < 4#3 then (s.storeEmBit d).countEmBit
    else if d != xor4 s.grp then s.raise .nibbleParity
    else s.storeNibble.countEmBit
  else s.countEmBit

/-- `SAMPLE d` of an EM4100 build (41_acquisition_em4100.md R151): the gate (40_acquisition_fdxb.md R130), the hunt
phase (R152), the data phase (R153). -/
def State.sampleEm4100 (d : Bool) (s : State) : State :=
  if !s.irqEn then s.raise .ignored
  else if s.hp < 9#4 then
    if d then { s with hp := s.hp + 1#4 }.answer .ok else s.raise .framingMismatch
  else s.takeEmBit d

/-- The meaning of `SAMPLE (PROTOCOL = EM4100)` (41_acquisition_em4100.md R151). -/
def execSampleEm4100 (d : Bool) (s : State) : Host.Outcome State Fault Refusal := .next (s.sampleEm4100 d)

end Sys2Proof.Machine
end

