-- ==== Sys2Proof/Machine/Fdxb.lean ====
section
/-! DEFINITION. `SAMPLE` of an FDXB build: header match and 128-bit frame acquisition (40_acquisition_fdxb.md). -/

namespace Sys2Proof.Machine

/-- A payload bit that does not complete the frame: `raw[bc] <- d`, `bc <- bc + 1` (40_acquisition_fdxb.md R134). -/
def State.storeFdxbBit (d : Bool) (s : State) : State :=
  { s with raw := setBit s.raw s.bc.toNat d, bc := s.bc + 1#8 }

/-- The completing step: the frame, this bit included, moves to the mailbox, the end time is latched, and the decoder
state returns to 0 (40_acquisition_fdxb.md R135). -/
def State.completeFdxb (d : Bool) (s : State) : State :=
  { (s.latchEnd.fillMailbox (setBit s.raw 127 d)) with raw := 0#128, bc := 0#8, hp := 0#4 }

/-- The data phase: the bit is taken, and the completion test is made in the same step on `bc' = bc + 1`, which is
wider than `bc` (40_acquisition_fdxb.md R131, R135). -/
def State.takeFdxbBit (d : Bool) (s : State) : State :=
  if s.bc.toNat + 1 > 127 then (s.completeFdxb d).answer .frameComplete else (s.storeFdxbBit d).answer .ok

/-- `SAMPLE d` of an FDXB build (40_acquisition_fdxb.md R131): the gate (R130), the hunt phase (R132), the boundary
phase (R133), the data phase (R134). -/
def State.sampleFdxb (d : Bool) (s : State) : State :=
  if !s.irqEn then s.raise .ignored
  else if s.hp < 10#4 then
    if d then s.raise .framingMismatch else { s with hp := s.hp + 1#4 }.answer .ok
  else if s.hp = 10#4 then
    if d then { s with hp := 11#4 }.answer .ok else s.raise .framingMismatch
  else s.takeFdxbBit d

/-- The meaning of `SAMPLE (PROTOCOL = FDXB)` (40_acquisition_fdxb.md R131). -/
def execSampleFdxb (d : Bool) (s : State) : Host.Outcome State Fault Refusal := .next (s.sampleFdxb d)

end Sys2Proof.Machine
end

