-- ==== Sys2Proof/Machine/Formatter.lean ====
section
/-! DEFINITION. `FORMAT`: the frame formatter (43_formatter.md). -/

namespace Sys2Proof.Machine

/-- `FORMAT` (43_formatter.md R190). An empty mailbox is NoFrame (R192); a full one is consumed, whatever the check
says (R192): a mismatch leaves the record alone (R195), a match writes it whole (R196 to R198). -/
def State.format (s : State) : State :=
  if !s.frameValid then s.raise .noFrame
  else if crcMatches s.fo then (s.emptyMailbox.storeRecord (recordOf s.fo)).answer .recordOk
  else s.raise .crcMismatch

/-- The meaning of `FORMAT` (43_formatter.md R190). -/
def execFormat (s : State) : Host.Outcome State Fault Refusal := .next s.format

end Sys2Proof.Machine
end

