-- ==== Sys2Proof/Machine/Reserved.lean ====
section
/-! DEFINITION. The reserved event words: each answers BAD_OP and changes nothing (30_encoding.md R113,
60_exceptions.md R256). -/

namespace Sys2Proof.Machine

/-- The meaning of the event word `0x1`. -/
def execReserved1 (s : State) : Host.Outcome State Fault Refusal := .next (s.raise .badOp)

/-- The meaning of the event word `0x5`. -/
def execReserved5 (s : State) : Host.Outcome State Fault Refusal := .next (s.raise .badOp)

/-- The meaning of the event word `0x7`. -/
def execReserved7 (s : State) : Host.Outcome State Fault Refusal := .next (s.raise .badOp)

/-- The meaning of the event word `0x9`. -/
def execReserved9 (s : State) : Host.Outcome State Fault Refusal := .next (s.raise .badOp)

/-- The meaning of the event words `0xA`, `0xB`; the free bit has no effect. -/
def execReservedAB (_x : Bool) (s : State) : Host.Outcome State Fault Refusal := .next (s.raise .badOp)

/-- The meaning of the event words `0xC` to `0xF`; the free bits have no effect. -/
def execReservedCF (_x : BitVec 2) (s : State) : Host.Outcome State Fault Refusal := .next (s.raise .badOp)

end Sys2Proof.Machine
end

