-- ==== Sys2Proof/Machine/Dispatch.lean ====
section
/-! DEFINITION. One operation of the port (30_encoding.md R111). -/

namespace Sys2Proof.Machine

/-- What an operation does in a state whose `port` holds the inputs of the step. A `SAMPLE` row is the semantics of
its own build; `step` reaches it only in that build (log entry 9). -/
def exec (i : Instr) (s : State) : Host.Outcome State Fault Refusal :=
  match i with
  | .nop => Sys2Proof.Machine.execNop s
  | .sampleFdxb d => Sys2Proof.Machine.execSampleFdxb d s
  | .sampleEm4100 d => Sys2Proof.Machine.execSampleEm4100 d s
  | .activate => Sys2Proof.Machine.execActivate s
  | .deactivate => Sys2Proof.Machine.execDeactivate s
  | .format => Sys2Proof.Machine.execFormat s
  | .reserved1 => Sys2Proof.Machine.execReserved1 s
  | .reserved5 => Sys2Proof.Machine.execReserved5 s
  | .reserved7 => Sys2Proof.Machine.execReserved7 s
  | .reserved9 => Sys2Proof.Machine.execReserved9 s
  | .reservedAB x => Sys2Proof.Machine.execReservedAB x s
  | .reservedCF x => Sys2Proof.Machine.execReservedCF x s

end Sys2Proof.Machine
end

