-- ==== Sys2Proof/Machine/Step.lean ====
section
/-! DEFINITION. One step of the machine (20_memory.md R69, 70_reset_and_hazards.md R295). -/

namespace Sys2Proof.Machine

/-- One step: the ports take what the environment presents; `rst` overrides any operation (70_reset_and_hazards.md
R290); else the event word is decoded for the build and performed (30_encoding.md R110, R111). -/
def step (s : State) : Host.Outcome State Fault Refusal :=
  if s.fetch.port.rst then .next s.fetch.resetStep else exec s.fetch.current s.fetch

/-- `s` with the event word `w` as the next thing the environment presents (log entry 11). -/
def State.withFetchWord (s : State) (_nbits w : Nat) : State := s.present (wordInput w s)

end Sys2Proof.Machine
end

