-- ==== Sys2Proof/Machine/Ports.lean ====
section
/-! DEFINITION. The outside of the block: what its output ports show (10_state.md R48), and the pin-level wrapper
that turns clock-line edges and host requests into event words (60_exceptions.md R260, R261, R266;
70_reset_and_hazards.md R310). -/

namespace Sys2Proof.Machine

/-- The decoded identity on the output ports: `rec.*` in an FDXB build, `em_id` in an EM4100 build. -/
inductive Identity where
  | fdxb (record : TagRecord) (checksumValid : Bool)
  | em4100 (emId : BitVec 40)
  deriving DecidableEq, Repr

/-- The output ports (10_state.md R48). `hp`, `bc`, `np`, `ni`, `grp`, `raw`, `nib` and `fo` are not among them. -/
structure PortOutput where
  result : Option (BitVec 4)
  fieldEn : Bool
  irqEn : Bool
  session : Session
  frameValid : Bool
  tagValid : Bool
  identity : Identity
  startTime : Ticks
  endTime : Ticks
  duration : Ticks
  report : Option Report
  deriving DecidableEq, Repr

/-- The decoded identity a build shows. -/
def State.identity (s : State) : Identity :=
  match s.protocol with
  | .fdxb => .fdxb s.record s.checksumValid
  | .em4100 => .em4100 s.emId

/-- What the collaborators see of a state (10_state.md R48). -/
def State.outputs (s : State) : PortOutput where
  result := s.result.map Status.code
  fieldEn := s.fieldEn
  irqEn := s.irqEn
  session := s.session
  frameValid := s.frameValid
  tagValid := s.tagValid
  identity := s.identity
  startTime := s.startTime
  endTime := s.endTime
  duration := s.duration
  report := s.report

/-- The levels at the pins over one instant, of both requesters of the one port (60_exceptions.md R272): the edge
detector's clock line before and after and its data line, what the host puts on its request lines, and the timer in this
step and in the following one, where a request that has to wait is taken. -/
structure Pins where
  clkBefore : Bool
  clkAfter : Bool
  data : Bool
  request : Option Instr
  now : Ticks
  nowNext : Ticks
  deriving DecidableEq, Repr

/-- The edge detector takes this change of the clock line (00_scope.md R9, 92 D2). -/
def edgeTaken (edge : ClkEdge) (before after : Bool) : Bool :=
  match edge with
  | .rising => !before && after
  | .falling => before && !after
  | .both => before != after

/-- The inputs are an edge's: they carry the event word of a `SAMPLE`. -/
def PortInput.isEdge (q : PortInput) : Bool := opField q.ev == 0b001#3

/-- The next step can be given to an edge: neither has an edge it already, nor is reset asserted in it. There is no latch
in which an edge could wait for a later step (10_state.md R49, 60_exceptions.md R260, 70_reset_and_hazards.md R310). -/
def State.stepForEdge (s : State) : Bool :=
  match s.inputs with
  | [] => true
  | q :: _ => !q.isEdge && !q.rst

/-- An edge that arrives now gets its step: the interrupt is enabled and the next step can be an edge's
(60_exceptions.md R261, 70_reset_and_hazards.md R310). -/
def State.takesEdge (s : State) : Bool := s.irqEn && s.stepForEdge

/-- The `SAMPLE` of an edge, exactly one; none for an edge that is not taken, which is lost (60_exceptions.md R260, R261;
70_reset_and_hazards.md R310). -/
def Pins.edgeEvents (edge : ClkEdge) (takes : Bool) (p : Pins) : List PortInput :=
  if takes && edgeTaken edge p.clkBefore p.clkAfter then [⟨eventWord 0b001#3 p.data, p.now, false⟩] else []

/-- What the host asks for, out of the operations that are its own to issue: `SAMPLE` is the edge detector's, and a host
that asks for one asks for nothing (60_exceptions.md R272, 70_reset_and_hazards.md R314; log entry 13). -/
def Pins.hostRequest (p : Pins) : Option Instr := p.request.filter Instr.hostMay

/-- What waits is put off by one step: the first of it is taken in the following step, with the timer of that step
(60_exceptions.md R266, R270). -/
def postpone (nowNext : Ticks) : List PortInput → List PortInput
  | [] => []
  | q :: rest => { q with now := nowNext } :: rest

/-- What waits at the port once the edge is served: its `SAMPLE` comes before all that the host asked for, which is put
off (60_exceptions.md R266, 92 D22). -/
def State.withEdge (edge : ClkEdge) (p : Pins) (s : State) : List PortInput :=
  match p.edgeEvents edge s.takesEdge with
  | [] => s.inputs
  | first => first ++ postpone p.nowNext s.inputs

/-- The host's request behind what waits before it: in this step if nothing does (60_exceptions.md R266). -/
def Pins.requestAfter (p : Pins) (waiting : List PortInput) : List PortInput :=
  match p.hostRequest with
  | none => []
  | some i => [⟨encode i, if waiting.isEmpty then p.now else p.nowNext, false⟩]

/-- The pins present their steps to the block: an edge has the very next step or is lost, and the host's request comes
behind what waits (60_exceptions.md R266, 70_reset_and_hazards.md R310; log entry 13). -/
def State.presentPins (edge : ClkEdge) (p : Pins) (s : State) : State :=
  { s with inputs := s.withEdge edge p ++ p.requestAfter (s.withEdge edge p) }

/-- The same instant without a change of the clock line. -/
def Pins.still (p : Pins) : Pins := { p with clkAfter := p.clkBefore }

end Sys2Proof.Machine
end

