-- ==== Sys2Proof/Safety.lean ====
section
/-! DEFINITION. The invariants of the block (10_state.md R27, R31, R42), which parts of the state an operation leaves
alone, and the bit streams claims speak of (30_encoding.md R90 to R94, R115). -/

namespace Sys2Proof.Machine

/-! ## Invariants -/

/-- The FDXB half of the decoder invariant (10_state.md R27). -/
abbrev DecoderInvFdxb (s : State) : Prop :=
  s.hp.toNat ≤ 11 ∧
  (s.hp.toNat < 11 → s.bc = 0#8 ∧ ∀ i : Fin 128, s.raw.getLsbD i.val = false) ∧
  (s.hp.toNat = 11 → s.bc.toNat ≤ 127 ∧ ∀ i : Fin 128, s.bc.toNat ≤ i.val → s.raw.getLsbD i.val = false)

/-- The EM4100 half of the decoder invariant (10_state.md R27, R25). -/
abbrev DecoderInvEm (s : State) : Prop :=
  s.hp.toNat ≤ 9 ∧
  (s.hp.toNat < 9 → s.bc = 0#8 ∧ s.np = 0#3 ∧ s.ni = 0#4 ∧ s.grp = 0#4 ∧ ∀ j : Fin 10, s.nib[j] = 0#4) ∧
  (s.hp.toNat = 9 →
    s.ni.toNat ≤ 10 ∧
    (s.ni.toNat < 10 → s.np.toNat ≤ 4 ∧ s.bc.toNat = 5 * s.ni.toNat + s.np.toNat) ∧
    (s.ni.toNat = 10 → s.np = 0#3 ∧ 50 ≤ s.bc.toNat ∧ s.bc.toNat ≤ 54) ∧
    (∀ j : Fin 10, s.ni.toNat ≤ j.val → s.nib[j] = 0#4) ∧
    (∀ k : Fin 4, k.val < 4 - s.np.toNat → s.grp.getLsbD k.val = false))

/-- An Idle session has no frame in progress (10_state.md R27, third clause). -/
abbrev IdleInv (s : State) : Prop :=
  s.session = .idle →
    s.hp = 0#4 ∧ s.bc = 0#8 ∧ s.np = 0#3 ∧ s.ni = 0#4 ∧ s.grp = 0#4 ∧
    (∀ i : Fin 128, s.raw.getLsbD i.val = false) ∧ (∀ j : Fin 10, s.nib[j] = 0#4)

/-- `frame_valid = 0` implies `fo = 0` (10_state.md R31). -/
abbrev MailboxInv (s : State) : Prop := s.frameValid = false → s.fo = 0#128

/-- `session = Active`, `field_en = 1` and `irq_en = 1` go together (10_state.md R42). -/
abbrev SessionInv (s : State) : Prop :=
  (s.session = .active ↔ s.fieldEn = true) ∧ (s.fieldEn = true ↔ s.irqEn = true)

/-- Before the first decoded identity both identity registers are 0 (44_session.md R229). -/
abbrev IdentityInv (s : State) : Prop := s.tagValid = false → s.record = TagRecord.zero ∧ s.emId = 0#40

/-- An element the build does not have keeps its reset value, and an EM4100 build has no frame in its mailbox
(10_state.md R20, 41_acquisition_em4100.md R159). -/
abbrev BuildInv (s : State) : Prop :=
  (s.protocol = .fdxb → s.np = 0#3 ∧ s.ni = 0#4 ∧ s.grp = 0#4 ∧ s.nib = zeroNibbles ∧ s.emId = 0#40) ∧
  (s.protocol = .em4100 → s.raw = 0#128 ∧ s.fo = 0#128 ∧ s.frameValid = false ∧ s.record = TagRecord.zero)

/-- The invariant of the block: what holds after reset and after every step (10_state.md R27, R31, R42). A state that
meets it is a safe state; a run is safe when every state of it does. -/
structure Inv (s : State) : Prop where
  fdxb : s.protocol = .fdxb → DecoderInvFdxb s
  em4100 : s.protocol = .em4100 → DecoderInvEm s
  idle : IdleInv s
  mailbox : MailboxInv s
  session : SessionInv s
  identity : IdentityInv s
  build : BuildInv s

/-! ## Completion -/

/-- An FDXB build is about to take the last bit of a frame (40_acquisition_fdxb.md R138 (c)). -/
abbrev AtLastBitFdxb (s : State) : Prop := s.irqEn = true ∧ s.hp = 11#4 ∧ s.bc = 127#8

/-- An EM4100 build is about to take the last bit of a frame (41_acquisition_em4100.md R162 (b)). -/
abbrev AtLastBitEm (s : State) : Prop := s.irqEn = true ∧ s.hp = 9#4 ∧ s.bc = 54#8

/-- The frame is `raw` with its last cell `d` (40_acquisition_fdxb.md R135). -/
abbrev CompletedFrame (raw : Frame) (d : Bool) (frame : Frame) : Prop :=
  ∀ i < 128, frame.getLsbD i = if i = 127 then d else raw.getLsbD i

/-! ## What an operation leaves alone (60_exceptions.md R273) -/

/-- The decoder state is the same. -/
abbrev SameDecoder (s t : State) : Prop :=
  t.hp = s.hp ∧ t.bc = s.bc ∧ t.np = s.np ∧ t.ni = s.ni ∧ t.grp = s.grp ∧ t.raw = s.raw ∧ t.nib = s.nib

/-- The mailbox is the same. -/
abbrev SameMailbox (s t : State) : Prop := t.fo = s.fo ∧ t.frameValid = s.frameValid

/-- The decoded identity is the same. -/
abbrev SameIdentity (s t : State) : Prop :=
  t.record = s.record ∧ t.emId = s.emId ∧ t.tagValid = s.tagValid

/-- What the session controller alone writes is the same. -/
abbrev SameSession (s t : State) : Prop :=
  t.session = s.session ∧ t.fieldEn = s.fieldEn ∧ t.irqEn = s.irqEn ∧ t.startTime = s.startTime ∧
  t.duration = s.duration

/-- The whole decoder state is at its reset value (44_session.md R225). -/
abbrev DecoderCleared (t : State) : Prop :=
  t.hp = 0#4 ∧ t.bc = 0#8 ∧ t.np = 0#3 ∧ t.ni = 0#4 ∧ t.grp = 0#4 ∧ t.raw = 0#128 ∧ ∀ j : Fin 10, t.nib[j] = 0#4

/-! ## Runs (70_reset_and_hazards.md R295) -/

/-- `k` steps, stopping at the first fault or refusal: `Host.Core.run` of this machine, over `State`. -/
def runSteps : Nat → State → Host.Outcome State Fault Refusal
  | 0, s => .next s
  | k + 1, s =>
    match step s with
    | .next t => runSteps k t
    | .fault r => .fault r
    | .refused r => .refused r

/-- `u` is `k` steps after `s`, none of which answers `FRAME_COMPLETE` (43_formatter.md R202 (c)). -/
def RunsWithoutCompletion : Nat → State → State → Prop
  | 0, s, u => u = s
  | k + 1, s, u => ∃ t, step s = .next t ∧ t.result ≠ some .frameComplete ∧ RunsWithoutCompletion k t u

/-! ## Bit streams (30_encoding.md R115) -/

/-- `SAMPLE` steps for a list of line levels, each with its timer value, no reset. -/
def sampleInputs (bits : List (Bool × Ticks)) : List PortInput :=
  bits.map fun b => ⟨eventWord 0b001#3 b.1, b.2, false⟩

/-- `HDR.FDXB`: ten `0` then one `1` (30_encoding.md R90). -/
def headerFdxb : List Bool := List.replicate 10 false ++ [true]

/-- Where `n` zeros came just before: does the stream hold a `1` whose run of zeros is a header by 40_acquisition_fdxb.md
R133, that is, of a length that is 10 modulo 11? -/
def holdsHeaderAfter : Nat → List Bool → Bool
  | _, [] => false
  | n, false :: bits => holdsHeaderAfter (n + 1) bits
  | n, true :: bits => n % 11 == 10 || holdsHeaderAfter 0 bits

/-- The stream holds the header pattern, in the sense of 40_acquisition_fdxb.md R133 and R138 (a): from `hp = 0`, a run of
`n` zeros and then a `1`, `n mod 11 = 10` (90_conflicts.md C4). -/
def holdsHeaderFdxb (bits : List Bool) : Bool := holdsHeaderAfter 0 bits

/-- `HDR.EM`: nine `1` (30_encoding.md R93). -/
def headerEm : List Bool := List.replicate 9 true

/-- The 128 bits of a frame in arrival order. -/
def frameBits (f : Frame) : List Bool := (List.range 128).map fun i => f.getLsbD i

/-- `NIB5 v`: the four bits of a nibble, most significant first, and their even parity (30_encoding.md R94). -/
def nib5 (v : Nibble) : List Bool := [v.getLsbD 3, v.getLsbD 2, v.getLsbD 1, v.getLsbD 0, xor4 v]

/-- The ten groups of an identifier, nibble 0 first (30_encoding.md R93). -/
def groupBits (nib : Vector Nibble 10) : List Bool := nib.toList.flatMap nib5

/-- Frame cells the formatter reads: the eight data cells of each of the 13 groups (20_memory.md R63, R64). -/
def cellIsRead (i : Nat) : Bool := decide (i < 117) && decide (i % 9 < 8)

/-- Two frames that differ, and only inside the eight cells of data byte `k` (43_formatter.md R202 (a)). -/
abbrev DifferInDataByte (k : Nat) (f g : Frame) : Prop :=
  (∀ i < 128, ¬ (9 * k ≤ i ∧ i < 9 * k + 8) → g.getLsbD i = f.getLsbD i) ∧ g ≠ f

/-- Frame cells of the three extra bytes, which no checksum covers (43_formatter.md R198). -/
def cellIsExtra (i : Nat) : Bool := decide (90 ≤ i) && decide (i < 117) && decide (i % 9 < 8)

end Sys2Proof.Machine
end

