-- ==== Sys2Proof/Certificates/Slice0/Obligations.lean ====
section
/-! DEFINITION. The statements for the provers, from the numbered rules of spec/. -/

open Sys2Proof Sys2Proof.Machine

/-! ## Event words -/

/-- The opcode map, word by word, in both builds (30_encoding.md R111). -/
def Obligations.EventWordsDecodeAsTheOpcodeMap : Prop :=
  (∀ p : Protocol,
    decode p 0x0#4 = .nop ∧ decode p 0x4#4 = .activate ∧ decode p 0x6#4 = .deactivate ∧
    decode p 0x8#4 = .format ∧ decode p 0x1#4 = .reserved1 ∧ decode p 0x5#4 = .reserved5 ∧
    decode p 0x7#4 = .reserved7 ∧ decode p 0x9#4 = .reserved9 ∧
    decode p 0xA#4 = .reservedAB false ∧ decode p 0xB#4 = .reservedAB true ∧
    ∀ x : BitVec 2, decode p (0b11#2 ++ x) = .reservedCF x) ∧
  decode .fdxb 0x2#4 = .sampleFdxb false ∧ decode .fdxb 0x3#4 = .sampleFdxb true ∧
  decode .em4100 0x2#4 = .sampleEm4100 false ∧ decode .em4100 0x3#4 = .sampleEm4100 true

/-- Decoding the encoding of an operation of a build gives it back, every operand at every value (30_encoding.md
R110, R111). -/
def Obligations.DecodeOfEncodeIsTheInstruction : Prop :=
  ∀ (p : Protocol) (i : Instr), i.wf p = true → decode p (encode i) = i

/-- Decoding is total and loses no bit: each of the 16 words is an operation of the build, and encodes back to itself
(30_encoding.md R113). -/
def Obligations.EncodeOfDecodeIsTheWord : Prop :=
  ∀ (p : Protocol) (ev : EventWord), (decode p ev).wf p = true ∧ encode (decode p ev) = ev

/-! ## The step -/

/-- A step whose inputs carry the word of an operation of the build, without reset, is that operation, performed with
those inputs on the ports (10_state.md R47, 30_encoding.md R110). -/
def Obligations.StepRunsTheDecodedInstruction : Prop :=
  ∀ (s : State) (p : PortInput) (rest : List PortInput) (i : Instr),
    s.inputs = p :: rest → p.rst = false → i.wf s.protocol = true → p.ev = encode i →
    step s = exec i { s with port := p, inputs := rest }

/-- A step for which nothing is presented is an idle step: it answers OK and changes nothing of the block. The model's
choice, log entry 3 (44_session.md R232). -/
def Obligations.StepWithNothingPresentedIsIdle : Prop :=
  ∀ s : State, s.inputs = [] →
    step s = .next { s with port := ⟨0x0#4, s.port.now, false⟩, result := some .ok, report := none }

/-- While `rst` is asserted, whatever operation is presented, and in the state the first step starts from, every
element is 0 and the session Idle; `PROTOCOL` is not affected (70_reset_and_hazards.md R290). -/
def Obligations.ResetSetsEveryElement : Prop :=
  let cleared := fun t : State =>
    DecoderCleared t ∧ t.fo = 0#128 ∧ t.frameValid = false ∧
    t.record.tagId = 0#38 ∧ t.record.countryCode = 0#10 ∧ t.record.dataBlockPresent = false ∧
    t.record.isAnimalApplication = false ∧ (∀ j : Fin 3, t.record.extraData[j] = 0#8) ∧
    t.checksumValid = false ∧ t.emId = 0#40 ∧ t.tagValid = false ∧ t.session = .idle ∧
    t.fieldEn = false ∧ t.irqEn = false ∧ t.startTime = 0#32 ∧ t.endTime = 0#32 ∧ t.duration = 0#32
  (∀ (s : State) (p : PortInput) (rest : List PortInput), s.inputs = p :: rest → p.rst = true →
    ∃ t, step s = .next t ∧ cleared t ∧ t.protocol = s.protocol) ∧
  (∀ p : Protocol, cleared (State.resetOf p) ∧ (State.resetOf p).protocol = p) ∧ cleared State.reset

/-- After reset the block is Idle in the hunt phase, and the first operation that has any effect is `ACTIVATE`: the
others answer IGNORED, NO_FRAME, OK with a zero report, OK (70_reset_and_hazards.md R293). -/
def Obligations.FirstOperationsAfterReset : Prop :=
  ∀ (p : Protocol) (inp : PortInput) (rest : List PortInput),
    let s : State := { State.resetOf p with port := inp, inputs := rest }
    s.session = .idle ∧ s.hp = 0#4 ∧
    (∀ d, exec (sampleOf p d) s = .next { s with result := some .ignored, report := none }) ∧
    exec .format s = .next { s with result := some .noFrame, report := none } ∧
    exec .deactivate s = .next { s with duration := 0#32, result := some .ok, report := some ⟨false, 0#64, 0#32⟩ } ∧
    exec .nop s = .next { s with result := some .ok, report := none } ∧
    (∃ t, exec .activate s = .next t ∧ t.session = .active ∧ t.result = some .ok)

/-- Nothing the environment can do makes the block faulted or stuck: every operation, and every step, answers a next
state (70_reset_and_hazards.md R314, 60_exceptions.md R250). -/
def Obligations.EveryStepAnswersANextState : Prop :=
  (∀ (i : Instr) (s : State), ∃ t, exec i s = .next t) ∧ (∀ s : State, ∃ t, step s = .next t)

/-! ## Invariants -/

/-- The invariant of the block holds after reset, in either build (10_state.md R27, R31, R42; 44_session.md R229). Its
clause on the elements a build lacks is the model's choice, log entry 6, which R20 allows. -/
def Obligations.ResetMeetsTheInvariant : Prop :=
  (∀ p : Protocol, Inv (State.resetOf p)) ∧ Inv State.reset

/-- Every step keeps the invariant of the block: the decoder state (10_state.md R27), the mailbox (R31), the session
(R42), the identity registers (44_session.md R229), and the elements a build lacks at their reset value, which is the
model's choice, log entry 6: 10_state.md R20 only allows it. -/
def Obligations.EveryStepKeepsTheInvariant : Prop :=
  (∀ p : Protocol, Inv (State.resetOf p)) ∧
  ∀ s t : State, Inv s → step s = .next t → Inv t

/-- `session = Active`, `field_en = 1` and `irq_en = 1` stay together under every step, whatever else the state holds
(10_state.md R42, 44_session.md R233 (a)). -/
def Obligations.SessionAndEnablesStayTogether : Prop :=
  ∀ s t : State, SessionInv s → step s = .next t → SessionInv t

/-- No step changes `PROTOCOL` (00_scope.md R7, 20_memory.md R75). -/
def Obligations.NoStepChangesTheProtocol : Prop :=
  ∀ s t : State, step s = .next t → t.protocol = s.protocol

/-! ## SAMPLE, both builds -/

/-- While `irq_en = 0` a `SAMPLE` changes nothing and answers IGNORED, in both builds; at pin level an edge then
causes no step (40_acquisition_fdxb.md R130). -/
def Obligations.SampleIsIgnoredWhileTheInterruptIsOff : Prop :=
  (∀ (s : State) (d : Bool), s.irqEn = false →
    exec (.sampleFdxb d) s = .next { s with result := some .ignored, report := none } ∧
    exec (.sampleEm4100 d) s = .next { s with result := some .ignored, report := none }) ∧
  (∀ (s : State) (edge : ClkEdge) (p : Pins), s.irqEn = false →
    p.edgeEvents edge s.takesEdge = [] ∧ s.presentPins edge p = s.presentPins edge p.still)

/-! ## SAMPLE, FDXB -/

/-- The hunt phase: a `0` counts, a `1` starts over, nothing else moves (40_acquisition_fdxb.md R132). -/
def Obligations.FdxbHuntPhase : Prop :=
  ∀ s : State, s.irqEn = true → s.hp < 10#4 →
    exec (.sampleFdxb false) s = .next { s with hp := s.hp + 1#4, result := some .ok, report := none } ∧
    exec (.sampleFdxb true) s = .next { s with hp := 0#4, result := some .ok, report := none }

/-- The boundary phase: a `1` confirms the header and is not stored, a `0` starts over from 0; so a run of `n` zeros
from `hp = 0`, then a `1`, confirms a header exactly when `n mod 11 = 10` (40_acquisition_fdxb.md R133). -/
def Obligations.FdxbBoundaryPhase : Prop :=
  (∀ s : State, s.irqEn = true → s.hp = 10#4 →
    exec (.sampleFdxb true) s = .next { s with hp := 11#4, result := some .ok, report := none } ∧
    exec (.sampleFdxb false) s = .next { s with hp := 0#4, result := some .ok, report := none }) ∧
  (∀ (s : State) (n : Nat) (bits : List (Bool × Ticks)) (rest : List PortInput),
    s.protocol = .fdxb → s.irqEn = true → s.hp = 0#4 →
    bits.map Prod.fst = List.replicate n false ++ [true] → s.inputs = sampleInputs bits ++ rest →
    ∃ t : State, runSteps bits.length s = .next t ∧ (t.hp = 11#4 ↔ n % 11 = 10) ∧ t.raw = s.raw ∧ t.bc = s.bc)

/-- The data phase: the bit goes to `raw[bc]`, the cursor moves, whatever the bit; and from the confirmed header the
phase lasts exactly 128 samples (40_acquisition_fdxb.md R134). -/
def Obligations.FdxbDataPhase : Prop :=
  (∀ (s : State) (d : Bool), s.irqEn = true → s.hp = 11#4 → s.bc.toNat < 127 →
    ∃ raw' : Frame,
      exec (.sampleFdxb d) s
        = .next { s with raw := raw', bc := s.bc + 1#8, result := some .ok, report := none } ∧
      ∀ i < 128, raw'.getLsbD i = if i = s.bc.toNat then d else s.raw.getLsbD i) ∧
  (∀ (s : State) (bits : List (Bool × Ticks)) (rest : List PortInput),
    s.protocol = .fdxb → s.irqEn = true → s.hp = 11#4 → s.bc = 0#8 → s.inputs = sampleInputs bits ++ rest →
    (bits.length < 128 → ∃ t : State, runSteps bits.length s = .next t ∧ t.hp = 11#4 ∧ t.bc.toNat = bits.length) ∧
    (bits.length = 128 → ∃ t : State, runSteps bits.length s = .next t ∧ t.hp = 0#4 ∧ t.result = some .frameComplete))

/-- Completion, in the step that takes bit 127: the end time is latched, the frame with this bit moves to the mailbox,
full or empty before, and the decoder state returns to 0; any earlier bit answers OK, with the frame still in progress
(40_acquisition_fdxb.md R135). -/
def Obligations.FdxbCompletion : Prop :=
  (∀ (s : State) (d : Bool), s.irqEn = true → s.hp = 11#4 → s.bc = 127#8 →
    ∃ frame : Frame,
      exec (.sampleFdxb d) s
        = .next { s with endTime := s.port.now, fo := frame, frameValid := true, raw := 0#128, bc := 0#8, hp := 0#4,
                         result := some .frameComplete, report := none } ∧
      CompletedFrame s.raw d frame) ∧
  (∀ (s : State) (d : Bool), s.irqEn = true → s.hp = 11#4 → s.bc.toNat < 127 →
    ∃ t : State, exec (.sampleFdxb d) s = .next t ∧ t.result = some .ok ∧ t.hp = 11#4 ∧ t.bc = s.bc + 1#8 ∧
      SameMailbox s t ∧ t.endTime = s.endTime)

/-- `FRAME_COMPLETE` exactly from `irq_en = 1`, `hp = 11`, `bc = 127` (40_acquisition_fdxb.md R138 (c)). -/
def Obligations.FdxbFrameCompleteExactlyOnTheLastBit : Prop :=
  ∀ (s t : State) (d : Bool), s.protocol = .fdxb → Inv s → exec (.sampleFdxb d) s = .next t →
    (t.result = some .frameComplete ↔ AtLastBitFdxb s)

/-- A bit stream that nowhere holds the header, a run of `n` zeros and a `1` with `n mod 11 = 10`, leaves the cursor at 0
after every one of its bits, and the mailbox as it was; runs of other lengths, cancelled ones of more than ten zeros among
them, may stand in it (40_acquisition_fdxb.md R138 (a), R133). -/
def Obligations.FdxbNoHeaderNoAcquisition : Prop :=
  ∀ (s : State) (bits : List (Bool × Ticks)) (rest : List PortInput),
    s.protocol = .fdxb → s.irqEn = true → s.hp = 0#4 → s.bc = 0#8 →
    holdsHeaderFdxb (bits.map Prod.fst) = false → s.inputs = sampleInputs bits ++ rest →
    ∀ k ≤ bits.length, ∃ t : State, runSteps k s = .next t ∧ t.bc = 0#8 ∧ t.hp.toNat ≤ 10 ∧
      t.raw = s.raw ∧ SameMailbox s t ∧ t.endTime = s.endTime

/-- A header and any 128 bits, 139 samples, put exactly those bits into the mailbox, latch the timer of the last one
and answer `FRAME_COMPLETE` with the engine back at 0; identity and session are untouched (40_acquisition_fdxb.md
R135, R138 (b), (d)). -/
def Obligations.FdxbFrameReachesTheMailbox : Prop :=
  ∀ (s : State) (f : Frame) (bits : List (Bool × Ticks)) (rest : List PortInput),
    s.protocol = .fdxb → s.irqEn = true → s.hp = 0#4 → s.bc = 0#8 →
    bits.map Prod.fst = headerFdxb ++ frameBits f → s.inputs = sampleInputs bits ++ rest →
    bits.length = 139 ∧
    ∃ t : State, runSteps 139 s = .next t ∧ t.fo = f ∧ t.frameValid = true ∧
      t.result = some .frameComplete ∧ (bits.map Prod.snd).getLast? = some t.endTime ∧
      t.hp = 0#4 ∧ t.bc = 0#8 ∧ t.raw = 0#128 ∧ t.inputs = rest ∧ SameIdentity s t ∧ SameSession s t

/-! ## SAMPLE, EM4100 -/

/-- The hunt phase: a `1` counts, a `0` starts over, nothing else moves; a tenth `1` is payload bit 0, the most
significant bit of the first nibble (41_acquisition_em4100.md R152). -/
def Obligations.EmHuntPhase : Prop :=
  (∀ s : State, s.irqEn = true → s.hp < 9#4 →
    exec (.sampleEm4100 true) s = .next { s with hp := s.hp + 1#4, result := some .ok, report := none } ∧
    exec (.sampleEm4100 false) s = .next { s with hp := 0#4, result := some .ok, report := none }) ∧
  (∀ (s : State) (bits : List (Bool × Ticks)) (rest : List PortInput),
    s.protocol = .em4100 → s.irqEn = true → DecoderCleared s →
    bits.map Prod.fst = headerEm ++ [true] → s.inputs = sampleInputs bits ++ rest →
    ∃ t : State, runSteps bits.length s = .next t ∧ t.hp = 9#4 ∧ t.bc = 1#8 ∧ t.np = 1#3 ∧ t.ni = 0#4 ∧
      t.grp = 0b1000#4 ∧ t.nib = s.nib)

/-- A data bit of a group goes to `grp[3 - np]`, so the first of a group to `grp[3]` and the fourth to `grp[0]`; `np`
counts it (41_acquisition_em4100.md R154). -/
def Obligations.EmDataBit : Prop :=
  ∀ (s : State) (d : Bool), s.irqEn = true → s.hp = 9#4 → s.ni < 10#4 → s.np < 4#3 → s.bc.toNat < 54 →
    ∃ g : Nibble,
      exec (.sampleEm4100 d) s
        = .next { s with grp := g, np := s.np + 1#3, bc := s.bc + 1#8, result := some .ok, report := none } ∧
      ∀ k < 4, g.getLsbD k = if k + s.np.toNat = 3 then d else s.grp.getLsbD k

/-- A parity bit that agrees with the group stores the nibble at `nib[ni]`; the group's counters return to 0 and `bc`
goes on counting (41_acquisition_em4100.md R155). -/
def Obligations.EmParityBitThatAgrees : Prop :=
  ∀ (s : State) (d : Bool), s.irqEn = true → s.hp = 9#4 → s.ni < 10#4 → s.np = 4#3 → s.bc.toNat < 54 → d = xor4 s.grp →
    ∃ nib' : Vector Nibble 10,
      exec (.sampleEm4100 d) s
        = .next { s with nib := nib', ni := s.ni + 1#4, np := 0#3, grp := 0#4, bc := s.bc + 1#8,
                         result := some .ok, report := none } ∧
      ∀ j : Fin 10, nib'[j] = if j.val = s.ni.toNat then s.grp else s.nib[j]

/-- A parity bit that disagrees restarts framing: all counters, the group and the nibbles to 0, nothing else touched,
`CHECKSUM_RETRY`; the bit is not counted as a header bit (41_acquisition_em4100.md R156). -/
def Obligations.EmParityBitThatDisagrees : Prop :=
  ∀ (s : State) (d : Bool), s.irqEn = true → s.hp = 9#4 → s.ni < 10#4 → s.np = 4#3 → d ≠ xor4 s.grp →
    exec (.sampleEm4100 d) s
      = .next { s with hp := 0#4, bc := 0#8, np := 0#3, ni := 0#4, grp := 0#4, nib := zeroNibbles,
                       result := some .checksumRetry, report := none }

/-- The five trailing bits are counted and nothing else; any five of them complete the frame
(41_acquisition_em4100.md R157). -/
def Obligations.EmTrailingBits : Prop :=
  (∀ (s : State) (d : Bool), s.irqEn = true → s.hp = 9#4 → s.ni = 10#4 → s.bc.toNat < 54 →
    exec (.sampleEm4100 d) s = .next { s with bc := s.bc + 1#8, result := some .ok, report := none }) ∧
  (∀ (s : State) (bits : List (Bool × Ticks)) (rest : List PortInput),
    s.protocol = .em4100 → s.irqEn = true → s.hp = 9#4 → s.ni = 10#4 → s.bc = 50#8 →
    bits.length = 5 → s.inputs = sampleInputs bits ++ rest →
    ∃ t : State, runSteps 5 s = .next t ∧ t.result = some .frameComplete ∧ t.emId = emIdOf s.nib)

/-- Completion, in the step that takes payload bit 54: the end time is latched, the ten nibbles become the identifier,
nibble 0 the most significant, and all decoder state returns to 0 (41_acquisition_em4100.md R158). -/
def Obligations.EmCompletion : Prop :=
  ∀ (s : State) (d : Bool), s.irqEn = true → s.hp = 9#4 → s.ni = 10#4 → s.bc = 54#8 →
    ∃ id : BitVec 40,
      exec (.sampleEm4100 d) s
        = .next { s with endTime := s.port.now, emId := id, tagValid := true, hp := 0#4, bc := 0#8, np := 0#3, ni := 0#4,
                         grp := 0#4, nib := zeroNibbles,
                         result := some .frameComplete, report := none } ∧
      ∀ j : Fin 10, id.extractLsb' (4 * (9 - j.val)) 4 = s.nib[j]

/-- `FRAME_COMPLETE` exactly from `irq_en = 1`, `hp = 9`, `bc = 54` (41_acquisition_em4100.md R162 (b)). -/
def Obligations.EmFrameCompleteExactlyOnTheLastBit : Prop :=
  ∀ (s t : State) (d : Bool), s.protocol = .em4100 → Inv s → exec (.sampleEm4100 d) s = .next t →
    (t.result = some .frameComplete ↔ AtLastBitEm s)

/-- For every nibble and every free slot: the four bits with their parity store exactly the nibble there, and the same
bits with the parity flipped restart framing with nothing stored (41_acquisition_em4100.md R162 (a)). -/
def Obligations.EmNibbleParity : Prop :=
  ∀ (s : State) (v : Nibble) (bits : List (Bool × Ticks)) (rest : List PortInput),
    s.protocol = .em4100 → s.irqEn = true → Inv s → s.hp = 9#4 → s.ni < 10#4 → s.np = 0#3 →
    s.inputs = sampleInputs bits ++ rest →
    (bits.map Prod.fst = nib5 v → ∃ t : State, runSteps 5 s = .next t ∧ t.result = some .ok ∧
      t.ni = s.ni + 1#4 ∧ t.np = 0#3 ∧ t.hp = 9#4 ∧ ∀ j : Fin 10, t.nib[j] = if j.val = s.ni.toNat then v else s.nib[j]) ∧
    (bits.map Prod.fst = (nib5 v).dropLast ++ [!xor4 v] → ∃ t : State, runSteps 5 s = .next t ∧
      t.result = some .checksumRetry ∧ DecoderCleared t ∧ SameIdentity s t ∧ t.endTime = s.endTime)

/-- A header, the groups of any ten nibbles and any five trailing bits, 64 samples, decode to exactly those nibbles
with nibble 0 the most significant, latch the timer of the last bit and answer `FRAME_COMPLETE`; the session is
untouched (41_acquisition_em4100.md R158, R161, R162 (c)). -/
def Obligations.EmFrameReachesTheIdentifier : Prop :=
  ∀ (s : State) (nib : Vector Nibble 10) (tail : List Bool) (bits : List (Bool × Ticks)) (rest : List PortInput),
    s.protocol = .em4100 → s.irqEn = true → DecoderCleared s → tail.length = 5 →
    bits.map Prod.fst = headerEm ++ groupBits nib ++ tail → s.inputs = sampleInputs bits ++ rest →
    bits.length = 64 ∧
    ∃ t : State, runSteps 64 s = .next t ∧ t.result = some .frameComplete ∧ t.tagValid = true ∧
      (∀ j : Fin 10, t.emId.extractLsb' (4 * (9 - j.val)) 4 = nib[j]) ∧
      (bits.map Prod.snd).getLast? = some t.endTime ∧ DecoderCleared t ∧ t.inputs = rest ∧
      SameMailbox s t ∧ SameSession s t

/-- A bit stream without nine consecutive `1` leaves the cursor at 0 after every one of its bits (41_acquisition_em4100.md R162 (d)). -/
def Obligations.EmNoHeaderNoAcquisition : Prop :=
  ∀ (s : State) (bits : List (Bool × Ticks)) (rest : List PortInput),
    s.protocol = .em4100 → s.irqEn = true → s.hp = 0#4 → s.bc = 0#8 →
    ¬ headerEm <:+: bits.map Prod.fst → s.inputs = sampleInputs bits ++ rest →
    ∀ k ≤ bits.length, ∃ t : State, runSteps k s = .next t ∧ t.bc = 0#8 ∧ t.hp.toNat ≤ 8 ∧ t.nib = s.nib ∧
      SameIdentity s t ∧ t.endTime = s.endTime

/-! ## FORMAT -/

/-- `FORMAT` acts on a full mailbox only: an empty one changes nothing and answers NO_FRAME; a full one is emptied
whatever the check says; and in an EM4100 build it is always NO_FRAME (43_formatter.md R192). -/
def Obligations.FormatConsumesTheMailbox : Prop :=
  (∀ s : State, s.frameValid = false →
    exec .format s = .next { s with result := some .noFrame, report := none }) ∧
  (∀ s : State, s.frameValid = true → ∃ t, exec .format s = .next t ∧ t.fo = 0#128 ∧ t.frameValid = false ∧
    (t.result = some .recordOk ∨ t.result = some .checksumFailure)) ∧
  (∀ s : State, s.protocol = .em4100 → Inv s →
    exec .format s = .next { s with result := some .noFrame, report := none })

/-- A frame whose checksum does not match yields no record: the mailbox is emptied, the record and `tag_valid` keep
their values, the answer is CHECKSUM_FAILURE (43_formatter.md R195). -/
def Obligations.FormatOnAMismatch : Prop :=
  ∀ s : State, s.frameValid = true → crc16 (frameBytes s.fo) 0x8408#16 0x0000#16 ≠ crcRx s.fo →
    exec .format s
      = .next { s with fo := 0#128, frameValid := false, result := some .checksumFailure, report := none }

/-- A frame whose checksum matches is decoded: every field of the record is written together with `tag_valid`, from the
bytes of the frame, and nothing else but the mailbox moves (43_formatter.md R190, R196 to R198). -/
def Obligations.FormatOnAMatch : Prop :=
  ∀ s : State, s.frameValid = true → crc16 (frameBytes s.fo) 0x8408#16 0x0000#16 = crcRx s.fo →
    exec .format s
      = .next { s with
          fo := 0#128, frameValid := false, tagValid := true,
          record :=
            { tagId := tagIdOf s.fo, countryCode := countryCodeOf s.fo,
              dataBlockPresent := (frameByte s.fo 6).getLsbD 0,
              isAnimalApplication := (frameByte s.fo 7).getLsbD 7,
              extraData := #v[extraByte s.fo 0, extraByte s.fo 1, extraByte s.fo 2] },
          result := some .recordOk, report := none }

/-- `RECORD_OK` means a valid identity: after it `tag_valid` and `rec.checksum_valid` read 1; and the record moves in
no other step than such a one or a reset (43_formatter.md R197, R202 (d)). -/
def Obligations.RecordMovesOnlyWithRecordOk : Prop :=
  (∀ (i : Instr) (s t : State), exec i s = .next t → t.result = some .recordOk →
    t.tagValid = true ∧ t.checksumValid = true) ∧
  (∀ s t : State, step s = .next t → t.record ≠ s.record → t.result = some .recordOk ∨ s.fetch.port.rst = true)

/-- The bytes of a frame, cell by cell: `byte[k]`, the transmitted checksum low byte first with the gap at 80, and the
extra bytes (30_encoding.md R95, R96, R97). -/
def Obligations.FrameBytesAreTheCells : Prop :=
  ∀ f : Frame,
    (∀ k < 8, ∀ i < 8, (frameByte f k).getLsbD i = f.getLsbD (9 * k + i)) ∧
    (∀ i < 8, (crcRx f).getLsbD i = f.getLsbD (72 + i)) ∧
    (∀ i, 8 ≤ i → i < 16 → (crcRx f).getLsbD i = f.getLsbD (73 + i)) ∧
    (∀ j < 3, ∀ i < 8, (extraByte f j).getLsbD i = f.getLsbD (90 + 9 * j + i))

/-- The record fields as numbers of the bytes: `tag_id` of 38 bits with no bit lost, `country_code` of 10 bits
unchecked, the two flags (30_encoding.md R98, R99, R100). -/
def Obligations.RecordFieldsFromTheBytes : Prop :=
  ∀ f : Frame,
    (recordOf f).tagId.toNat
      = (frameByte f 0).toNat + (frameByte f 1).toNat * 2 ^ 8 + (frameByte f 2).toNat * 2 ^ 16
        + (frameByte f 3).toNat * 2 ^ 24 + ((frameByte f 4).toNat % 64) * 2 ^ 32 ∧
    (recordOf f).countryCode.toNat = (frameByte f 5).toNat * 4 + (frameByte f 4).toNat / 64 ∧
    (recordOf f).dataBlockPresent = (frameByte f 6).getLsbD 0 ∧
    (recordOf f).isAnimalApplication = (frameByte f 7).getLsbD 7

/-- The 64 data bits as one string, data bit `n` in cell `9 (n div 8) + n mod 8`: `tag_id` is data bits 37:0,
`country_code` 47:38, the flags 48 and 63 (20_memory.md R62, 30_encoding.md R92). -/
def Obligations.RecordFieldsAreTheDataBits : Prop :=
  ∀ f : Frame,
    (∀ n < 38, (recordOf f).tagId.getLsbD n = f.getLsbD (9 * (n / 8) + n % 8)) ∧
    (∀ n < 10, (recordOf f).countryCode.getLsbD n = f.getLsbD (9 * ((38 + n) / 8) + (38 + n) % 8)) ∧
    (recordOf f).dataBlockPresent = f.getLsbD (9 * (48 / 8) + 48 % 8) ∧
    (recordOf f).isAnimalApplication = f.getLsbD (9 * (63 / 8) + 63 % 8)

/-- Two frames that differ only in the 24 cells no rule reads give the same `FORMAT` step (20_memory.md R64). -/
def Obligations.FormatIgnoresTheUnreadCells : Prop :=
  ∀ (s : State) (f g : Frame), s.frameValid = true →
    (∀ i < 128, cellIsRead i = true → f.getLsbD i = g.getLsbD i) →
    exec .format { s with fo := f } = exec .format { s with fo := g }

/-- The extra bytes are not under the checksum: a frame that differs from an accepted one in their cells alone is
accepted, with its own extra bytes and the other fields of the first, whatever `data_block_present` says
(43_formatter.md R198). -/
def Obligations.ExtraBytesAreNotChecked : Prop :=
  ∀ (s t : State) (f g : Frame), s.frameValid = true →
    (∀ i < 128, cellIsExtra i = false → f.getLsbD i = g.getLsbD i) →
    exec .format { s with fo := f } = .next t → t.result = some .recordOk →
    exec .format { s with fo := g }
      = .next { t with record :=
          { t.record with extraData := #v[memRead8 g 90, memRead8 g 99, memRead8 g 108] } }

/-- A frame that passes the check, changed inside one data byte's eight cells and nowhere else, fails it:
CHECKSUM_FAILURE, no record (43_formatter.md R202 (a), 42_crc16.md R184). -/
def Obligations.FormatRejectsACorruptedDataByte : Prop :=
  ∀ (s : State) (f g : Frame) (k : Nat), s.frameValid = true → k < 8 →
    crc16 (frameBytes f) 0x8408#16 0x0000#16 = crcRx f →
    DifferInDataByte k f g →
    exec .format { s with fo := g }
      = .next { s with fo := 0#128, frameValid := false, result := some .checksumFailure, report := none }

/-- `FORMAT` after `FORMAT` finds no frame and changes nothing, whatever steps come between them, resets included, as long
as none of them completes a frame (43_formatter.md R202 (c), 20_memory.md R70). -/
def Obligations.FormatTwiceFindsNoFrame : Prop :=
  ∀ (s t u : State) (k : Nat), exec .format s = .next t → RunsWithoutCompletion k t u →
    exec .format u = .next { u with result := some .noFrame, report := none }

/-- The all-zero frame passes the check and yields the zero record; the all-one frame fails it
(43_formatter.md R200). -/
def Obligations.FormatOfTheUniformFrames : Prop :=
  ∀ s : State, s.frameValid = true →
    (s.fo = 0#128 → exec .format s
      = .next { s with frameValid := false, tagValid := true,
                       record := ⟨0#38, 0#10, false, false, #v[0#8, 0#8, 0#8]⟩,
                       result := some .recordOk, report := none }) ∧
    (s.fo = BitVec.allOnes 128 → exec .format s
      = .next { s with fo := 0#128, frameValid := false, result := some .checksumFailure, report := none })

/-! ## The checksum (42_crc16.md R184) -/

/-- With seed 0 the checksum is linear over XOR of equal-length sequences. -/
def Obligations.CrcIsLinear : Prop :=
  ∀ a b : List Byte, a.length = b.length →
    crc16 (List.zipWith (· ^^^ ·) a b) 0x8408#16 0x0000#16
      = crc16 a 0x8408#16 0x0000#16 ^^^ crc16 b 0x8408#16 0x0000#16

/-- Appending the checksum, low byte then high byte, leaves residue 0; leading zero bytes do not matter. -/
def Obligations.CrcResidueAndLeadingZeros : Prop :=
  (∀ b : List Byte,
    let c := crc16 b 0x8408#16 0x0000#16
    crc16 (b ++ [c.extractLsb' 0 8, c.extractLsb' 8 8]) 0x8408#16 0x0000#16 = 0) ∧
  (∀ (b : List Byte) (n : Nat),
    crc16 (List.replicate n 0 ++ b) 0x8408#16 0x0000#16 = crc16 b 0x8408#16 0x0000#16)

/-- A change confined to one byte changes the checksum, whatever the other bytes. -/
def Obligations.CrcSeesEveryByte : Prop :=
  ∀ (before after : List Byte) (x y : Byte), x ≠ y →
    crc16 (before ++ x :: after) 0x8408#16 0x0000#16 ≠ crc16 (before ++ y :: after) 0x8408#16 0x0000#16

/-! ## The session -/

/-- `ACTIVATE`, event word `0x4`: in an Idle session it turns the field and the interrupt on, latches the timer and
makes it Active, the decoder state being all 0 then; while Active it changes nothing, `start_time` included, and answers
SESSION_BUSY (44_session.md R222, R223). -/
def Obligations.ActivateOpensAnIdleSession : Prop :=
  (∀ p : Protocol, decode p 0x4#4 = .activate) ∧
  (∀ s : State, Inv s → s.session = .idle → DecoderCleared s) ∧
  ∀ s : State,
    (s.session = .idle → exec .activate s
      = .next { s with fieldEn := true, startTime := s.port.now, irqEn := true, session := .active,
                       result := some .ok, report := none }) ∧
    (s.session = .active → exec .activate s = .next { s with result := some .sessionBusy, report := none })

/-- `ACTIVATE` twice ends in the state of once; the second answer is SESSION_BUSY (44_session.md R233 (d)). -/
def Obligations.ActivateTwiceIsOnce : Prop :=
  ∀ s t : State, exec .activate s = .next t →
    exec .activate t = .next { t with result := some .sessionBusy }

/-- `DEACTIVATE`, event word `0x6`, from either session state: field and interrupt off, Idle, the whole decoder state to 0, `duration`
computed, OK; the mailbox, the identity and the two timestamps stay (44_session.md R224). -/
def Obligations.DeactivateClosesTheSession : Prop :=
  (∀ p : Protocol, decode p 0x6#4 = .deactivate) ∧
  ∀ s : State, ∃ r : Report, exec .deactivate s
    = .next { s with
        fieldEn := false, irqEn := false, session := .idle,
        hp := 0#4, bc := 0#8, np := 0#3, ni := 0#4, grp := 0#4, raw := 0#128, nib := zeroNibbles,
        duration := s.endTime - s.startTime, result := some .ok, report := some r } ∧
    r = ⟨s.tagValid, tag64 s, s.endTime - s.startTime⟩

/-- `DEACTIVATE` completes from every state, and twice in a row is the same as once; both reports are the same
(44_session.md R226). -/
def Obligations.DeactivateIsIdempotent : Prop :=
  ∀ s : State, ∃ t, exec .deactivate s = .next t ∧ exec .deactivate t = .next t

/-- The duration is the elapsed ticks, also when the timer wrapped once: a session whose `end_time` is `n` ticks after
its `start_time`, `n < 2^32`, has duration `n` (44_session.md R227). -/
def Obligations.DurationSurvivesTheWrap : Prop :=
  ∀ s : State,
    ∃ t, exec .deactivate s = .next t ∧
      t.duration.toNat = (s.endTime.toNat + 2 ^ 32 - s.startTime.toNat) % 2 ^ 32 ∧
      ∀ n < 2 ^ 32, s.endTime.toNat = (s.startTime.toNat + n) % 2 ^ 32 → t.duration.toNat = n

/-- The report carries `tag_valid`, the last decoded identity of the build zero-extended to 64 bits, 0 if there is none,
and the duration written in the same step; no other operation produces one (44_session.md R229). -/
def Obligations.ReportCarriesTheLastIdentity : Prop :=
  (∀ s : State, ∃ t r, exec .deactivate s = .next t ∧ t.report = some r ∧
    r.valid = s.tagValid ∧ r.duration = t.duration ∧
    (s.tagValid = true → s.protocol = .fdxb → r.tag.toNat = s.record.tagId.toNat) ∧
    (s.tagValid = true → s.protocol = .em4100 → r.tag.toNat = s.emId.toNat) ∧
    (s.tagValid = false → r.tag = 0#64)) ∧
  (∀ (i : Instr) (s t : State), exec i s = .next t → i ≠ .deactivate → t.report = none)

/-- `NOP`, event word `0x0`, answers OK and touches nothing (44_session.md R232). -/
def Obligations.NopChangesNothing : Prop :=
  (∀ p : Protocol, decode p 0x0#4 = .nop) ∧
  ∀ s : State, exec .nop s = .next { s with result := some .ok, report := none }

/-- A reserved event word changes nothing and answers BAD_OP, in both builds; and every one of the 16 words has a
defined outcome (30_encoding.md R113). -/
def Obligations.ReservedWordsChangeNothing : Prop :=
  (∀ (i : Instr) (s : State), i.isReserved = true →
    exec i s = .next { s with result := some .badOp, report := none }) ∧
  (∀ (p : Protocol) (ev : EventWord),
    (decode p ev).isReserved = true ↔ ev = 0x1#4 ∨ ev = 0x5#4 ∨ ev = 0x7#4 ∨ ev = 0x9#4 ∨ 0xA#4 ≤ ev) ∧
  (∀ (p : Protocol) (ev : EventWord) (s : State), ∃ t, exec (decode p ev) s = .next t)

/-! ## The whole machine -/

/-- Who writes what: outside reset, the decoder state moves only in `SAMPLE` and `DEACTIVATE` steps, the mailbox only in
`SAMPLE` and `FORMAT`, the identity only in `SAMPLE` (EM4100) and `FORMAT`, the session elements only in `ACTIVATE` and
`DEACTIVATE`, `end_time` only in `SAMPLE`; and no operation touches `PROTOCOL` or its own inputs (10_state.md R50,
60_exceptions.md R273). -/
def Obligations.OnlyTheNamedOperationsWrite : Prop :=
  ∀ (i : Instr) (s t : State), exec i s = .next t →
    ((∀ d, i ≠ .sampleFdxb d ∧ i ≠ .sampleEm4100 d) → i ≠ .deactivate → SameDecoder s t) ∧
    ((∀ d, i ≠ .sampleFdxb d) → i ≠ .format → SameMailbox s t) ∧
    ((∀ d, i ≠ .sampleEm4100 d) → i ≠ .format → SameIdentity s t) ∧
    (i ≠ .activate → i ≠ .deactivate → SameSession s t) ∧
    (i ≠ .activate → t.startTime = s.startTime) ∧
    (i ≠ .deactivate → t.duration = s.duration) ∧
    ((∀ d, i ≠ .sampleFdxb d ∧ i ≠ .sampleEm4100 d) → t.endTime = s.endTime) ∧
    t.protocol = s.protocol ∧ t.port = s.port ∧ t.inputs = s.inputs

/-- `end_time` moves only in a completing `SAMPLE`, and then to the timer value of that step; neither the controller nor
the formatter writes it (44_session.md R228, 10_state.md R44). -/
def Obligations.EndTimeIsLatchedByCompletionAlone : Prop :=
  ∀ (i : Instr) (s t : State), exec i s = .next t →
    (t.result = some .frameComplete → t.endTime = s.port.now ∧ ∃ d, i = .sampleFdxb d ∨ i = .sampleEm4100 d) ∧
    (t.result ≠ some .frameComplete → t.endTime = s.endTime)

/-- The mailbox changes only as a whole: a completing `SAMPLE` of the FDXB build puts the whole frame there, `raw` with this
bit in its last cell; `FORMAT` empties it; reset clears it; in every other step it stands (20_memory.md R72). -/
def Obligations.MailboxChangesOnlyAsAWhole : Prop :=
  ∀ s t : State, step s = .next t → s.fetch.port.rst = false → ¬ SameMailbox s t →
    (t.result = some .frameComplete ∧ t.frameValid = true ∧
      ∃ d, s.fetch.current = .sampleFdxb d ∧ CompletedFrame s.raw d t.fo) ∨
    (s.fetch.current = .format ∧ t.fo = 0#128 ∧ t.frameValid = false)

/-- `tag_valid` is cleared by reset alone, and set only by `RECORD_OK` or an EM4100 `FRAME_COMPLETE`
(10_state.md R35). -/
def Obligations.TagValidIsClearedByResetAlone : Prop :=
  ∀ s t : State, step s = .next t → s.fetch.port.rst = false →
    (s.tagValid = true → t.tagValid = true) ∧
    (s.tagValid = false → t.tagValid = true →
      t.result = some .recordOk ∨ (s.protocol = .em4100 ∧ t.result = some .frameComplete))

/-- The session moves only from Idle to Active by `ACTIVATE` and from Active to Idle by `DEACTIVATE`; in particular
neither a completed frame nor a failed check ends it (44_session.md R220, R230). -/
def Obligations.SessionMovesByTheControllerAlone : Prop :=
  ∀ s t : State, step s = .next t → s.fetch.port.rst = false → t.session ≠ s.session →
    (s.session = .idle ∧ t.session = .active ∧ s.fetch.current = .activate) ∨
    (s.session = .active ∧ t.session = .idle ∧ s.fetch.current = .deactivate)

/-- A failing integrity check changes neither the session nor an identity decoded before: CHECKSUM_RETRY and
CHECKSUM_FAILURE leave identity, session and `end_time` alone (60_exceptions.md R252, R253; 44_session.md R230). -/
def Obligations.FailedChecksKeepTheLastIdentity : Prop :=
  ∀ (i : Instr) (s t : State), exec i s = .next t →
    t.result = some .checksumRetry ∨ t.result = some .checksumFailure →
    SameIdentity s t ∧ SameSession s t ∧ t.endTime = s.endTime

/-- At pin level an accepted edge that coincides with a request of the host is served first, as a `SAMPLE` of the data line,
and the request in the following step. An edge is exactly one `SAMPLE` in the very next step, before all the host asked for;
an edge for which that step is not available is lost, as if the clock line had not moved, and is not delivered later. R266
says the first of `FORMAT`, `ACTIVATE` and `DEACTIVATE`; that every other operation the host may issue waits in the same
way, also one that has waited before, that a `SAMPLE` on the host's request lines is no request at all, and which steps are
available to an edge, is the model's choice, log entry 13 (60_exceptions.md R260, R266, R272; 70_reset_and_hazards.md
R310). -/
def Obligations.CoincidingEdgeIsServedFirst : Prop :=
  (∀ (s : State) (edge : ClkEdge) (p : Pins) (i : Instr),
    s.inputs = [] → s.irqEn = true → edgeTaken edge p.clkBefore p.clkAfter = true →
    p.request = some i → i.hostMay = true →
    ∃ t : State,
      step (s.presentPins edge p) = .next t ∧
      exec (sampleOf s.protocol p.data)
        { s with port := ⟨eventWord 0b001#3 p.data, p.now, false⟩, inputs := [⟨encode i, p.nowNext, false⟩] }
        = .next t ∧
      step t = exec i { t with port := ⟨encode i, p.nowNext, false⟩, inputs := [] }) ∧
  (∀ (s : State) (edge : ClkEdge) (p : Pins) (i : Instr), p.request = some i → i.hostMay = false →
    s.presentPins edge p = s.presentPins edge { p with request := none }) ∧
  (∀ (s : State) (edge : ClkEdge) (p : Pins),
    s.irqEn = true → s.stepForEdge = true → edgeTaken edge p.clkBefore p.clkAfter = true →
    ∃ rest : List PortInput,
      (s.presentPins edge p).inputs = ⟨eventWord 0b001#3 p.data, p.now, false⟩ :: rest ∧
      rest.countP PortInput.isEdge = s.inputs.countP PortInput.isEdge ∧
      step (s.presentPins edge p)
        = exec (sampleOf s.protocol p.data)
            { s with port := ⟨eventWord 0b001#3 p.data, p.now, false⟩, inputs := rest }) ∧
  (∀ (s : State) (edge : ClkEdge) (p : Pins), s.stepForEdge = false →
    s.presentPins edge p = s.presentPins edge p.still)
end

