-- ==== Sys2Proof/Laws/Bits.lean ====
section
/-! SUPPORT. Bit by bit, what the operand forms and the checksum read and write. -/

namespace Sys2Proof.Machine

theorem getLsbD_setBit {w : Nat} (v : BitVec w) (i : Nat) (d : Bool) {j : Nat} (hj : j < w) :
    (setBit v i d).getLsbD j = if j = i then d else v.getLsbD j := by
  unfold setBit
  by_cases h : j = i
  · subst h
    cases d <;> simp [hj]
  · by_cases h' : j < i
    · cases d <;> simp [hj, h, h']
    · have h3 : j - i ≠ 0 := by omega
      cases d <;> simp [hj, h, h', h3]

theorem getLsbD_memRead8 (f : Frame) (addr : Nat) {i : Nat} (hi : i < 8) :
    (memRead8 f addr).getLsbD i = f.getLsbD (addr + i) := by
  simp [memRead8, hi]

/-- One cell written, the others unchanged. -/
theorem getElem_setNibble (nib : Vector Nibble 10) (j : Nat) (v : Nibble) (k : Nat) (hk : k < 10) :
    (setNibble nib j v)[k] = if k = j then v else nib[k] := by
  unfold setNibble
  rw [Vector.getElem_setIfInBounds]
  by_cases h : j = k
  · simp [h]
  · simp [h, Ne.symm h]

@[simp] theorem getElem_zeroNibbles (k : Nat) (hk : k < 10) : zeroNibbles[k] = 0#4 := by
  interval_cases k <;> rfl

@[simp] theorem crc16_nil (poly seed : Crc) : crc16 [] poly seed = seed := rfl

@[simp] theorem crc16_cons (b : Byte) (bs : List Byte) (poly seed : Crc) :
    crc16 (b :: bs) poly seed = crc16 bs poly (crcByte poly seed b) := rfl

theorem crc16_append (as bs : List Byte) (poly seed : Crc) :
    crc16 (as ++ bs) poly seed = crc16 bs poly (crc16 as poly seed) := by
  simp [crc16]

end Sys2Proof.Machine
end

