-- ==== Sys2Proof/Laws/State.lean ====
section
/-! SUPPORT. The fields of each named update of the state: one lemma per field per update, true by rfl. -/

namespace Sys2Proof.Machine

/-! ### `State.answer` -/

section
variable (r : Status) (s : State)

@[simp] theorem State.answer_hp : (s.answer r).hp = s.hp := rfl
@[simp] theorem State.answer_bc : (s.answer r).bc = s.bc := rfl
@[simp] theorem State.answer_np : (s.answer r).np = s.np := rfl
@[simp] theorem State.answer_ni : (s.answer r).ni = s.ni := rfl
@[simp] theorem State.answer_grp : (s.answer r).grp = s.grp := rfl
@[simp] theorem State.answer_raw : (s.answer r).raw = s.raw := rfl
@[simp] theorem State.answer_nib : (s.answer r).nib = s.nib := rfl
@[simp] theorem State.answer_fo : (s.answer r).fo = s.fo := rfl
@[simp] theorem State.answer_frameValid : (s.answer r).frameValid = s.frameValid := rfl
@[simp] theorem State.answer_record : (s.answer r).record = s.record := rfl
@[simp] theorem State.answer_emId : (s.answer r).emId = s.emId := rfl
@[simp] theorem State.answer_tagValid : (s.answer r).tagValid = s.tagValid := rfl
@[simp] theorem State.answer_session : (s.answer r).session = s.session := rfl
@[simp] theorem State.answer_fieldEn : (s.answer r).fieldEn = s.fieldEn := rfl
@[simp] theorem State.answer_irqEn : (s.answer r).irqEn = s.irqEn := rfl
@[simp] theorem State.answer_startTime : (s.answer r).startTime = s.startTime := rfl
@[simp] theorem State.answer_endTime : (s.answer r).endTime = s.endTime := rfl
@[simp] theorem State.answer_duration : (s.answer r).duration = s.duration := rfl
@[simp] theorem State.answer_protocol : (s.answer r).protocol = s.protocol := rfl
@[simp] theorem State.answer_port : (s.answer r).port = s.port := rfl
@[simp] theorem State.answer_inputs : (s.answer r).inputs = s.inputs := rfl
@[simp] theorem State.answer_result : (s.answer r).result = some r := rfl
@[simp] theorem State.answer_report : (s.answer r).report = none := rfl

end

/-! ### `State.clearDecoder` -/

section
variable (s : State)

@[simp] theorem State.clearDecoder_hp : (s.clearDecoder).hp = 0#4 := rfl
@[simp] theorem State.clearDecoder_bc : (s.clearDecoder).bc = 0#8 := rfl
@[simp] theorem State.clearDecoder_np : (s.clearDecoder).np = 0#3 := rfl
@[simp] theorem State.clearDecoder_ni : (s.clearDecoder).ni = 0#4 := rfl
@[simp] theorem State.clearDecoder_grp : (s.clearDecoder).grp = 0#4 := rfl
@[simp] theorem State.clearDecoder_raw : (s.clearDecoder).raw = 0#128 := rfl
@[simp] theorem State.clearDecoder_nib : (s.clearDecoder).nib = zeroNibbles := rfl
@[simp] theorem State.clearDecoder_fo : (s.clearDecoder).fo = s.fo := rfl
@[simp] theorem State.clearDecoder_frameValid : (s.clearDecoder).frameValid = s.frameValid := rfl
@[simp] theorem State.clearDecoder_record : (s.clearDecoder).record = s.record := rfl
@[simp] theorem State.clearDecoder_emId : (s.clearDecoder).emId = s.emId := rfl
@[simp] theorem State.clearDecoder_tagValid : (s.clearDecoder).tagValid = s.tagValid := rfl
@[simp] theorem State.clearDecoder_session : (s.clearDecoder).session = s.session := rfl
@[simp] theorem State.clearDecoder_fieldEn : (s.clearDecoder).fieldEn = s.fieldEn := rfl
@[simp] theorem State.clearDecoder_irqEn : (s.clearDecoder).irqEn = s.irqEn := rfl
@[simp] theorem State.clearDecoder_startTime : (s.clearDecoder).startTime = s.startTime := rfl
@[simp] theorem State.clearDecoder_endTime : (s.clearDecoder).endTime = s.endTime := rfl
@[simp] theorem State.clearDecoder_duration : (s.clearDecoder).duration = s.duration := rfl
@[simp] theorem State.clearDecoder_protocol : (s.clearDecoder).protocol = s.protocol := rfl
@[simp] theorem State.clearDecoder_port : (s.clearDecoder).port = s.port := rfl
@[simp] theorem State.clearDecoder_inputs : (s.clearDecoder).inputs = s.inputs := rfl
@[simp] theorem State.clearDecoder_result : (s.clearDecoder).result = s.result := rfl
@[simp] theorem State.clearDecoder_report : (s.clearDecoder).report = s.report := rfl

end

/-! ### `State.fillMailbox` -/

section
variable (f : Frame) (s : State)

@[simp] theorem State.fillMailbox_hp : (s.fillMailbox f).hp = s.hp := rfl
@[simp] theorem State.fillMailbox_bc : (s.fillMailbox f).bc = s.bc := rfl
@[simp] theorem State.fillMailbox_np : (s.fillMailbox f).np = s.np := rfl
@[simp] theorem State.fillMailbox_ni : (s.fillMailbox f).ni = s.ni := rfl
@[simp] theorem State.fillMailbox_grp : (s.fillMailbox f).grp = s.grp := rfl
@[simp] theorem State.fillMailbox_raw : (s.fillMailbox f).raw = s.raw := rfl
@[simp] theorem State.fillMailbox_nib : (s.fillMailbox f).nib = s.nib := rfl
@[simp] theorem State.fillMailbox_fo : (s.fillMailbox f).fo = f := rfl
@[simp] theorem State.fillMailbox_frameValid : (s.fillMailbox f).frameValid = true := rfl
@[simp] theorem State.fillMailbox_record : (s.fillMailbox f).record = s.record := rfl
@[simp] theorem State.fillMailbox_emId : (s.fillMailbox f).emId = s.emId := rfl
@[simp] theorem State.fillMailbox_tagValid : (s.fillMailbox f).tagValid = s.tagValid := rfl
@[simp] theorem State.fillMailbox_session : (s.fillMailbox f).session = s.session := rfl
@[simp] theorem State.fillMailbox_fieldEn : (s.fillMailbox f).fieldEn = s.fieldEn := rfl
@[simp] theorem State.fillMailbox_irqEn : (s.fillMailbox f).irqEn = s.irqEn := rfl
@[simp] theorem State.fillMailbox_startTime : (s.fillMailbox f).startTime = s.startTime := rfl
@[simp] theorem State.fillMailbox_endTime : (s.fillMailbox f).endTime = s.endTime := rfl
@[simp] theorem State.fillMailbox_duration : (s.fillMailbox f).duration = s.duration := rfl
@[simp] theorem State.fillMailbox_protocol : (s.fillMailbox f).protocol = s.protocol := rfl
@[simp] theorem State.fillMailbox_port : (s.fillMailbox f).port = s.port := rfl
@[simp] theorem State.fillMailbox_inputs : (s.fillMailbox f).inputs = s.inputs := rfl
@[simp] theorem State.fillMailbox_result : (s.fillMailbox f).result = s.result := rfl
@[simp] theorem State.fillMailbox_report : (s.fillMailbox f).report = s.report := rfl

end

/-! ### `State.emptyMailbox` -/

section
variable (s : State)

@[simp] theorem State.emptyMailbox_hp : (s.emptyMailbox).hp = s.hp := rfl
@[simp] theorem State.emptyMailbox_bc : (s.emptyMailbox).bc = s.bc := rfl
@[simp] theorem State.emptyMailbox_np : (s.emptyMailbox).np = s.np := rfl
@[simp] theorem State.emptyMailbox_ni : (s.emptyMailbox).ni = s.ni := rfl
@[simp] theorem State.emptyMailbox_grp : (s.emptyMailbox).grp = s.grp := rfl
@[simp] theorem State.emptyMailbox_raw : (s.emptyMailbox).raw = s.raw := rfl
@[simp] theorem State.emptyMailbox_nib : (s.emptyMailbox).nib = s.nib := rfl
@[simp] theorem State.emptyMailbox_fo : (s.emptyMailbox).fo = 0#128 := rfl
@[simp] theorem State.emptyMailbox_frameValid : (s.emptyMailbox).frameValid = false := rfl
@[simp] theorem State.emptyMailbox_record : (s.emptyMailbox).record = s.record := rfl
@[simp] theorem State.emptyMailbox_emId : (s.emptyMailbox).emId = s.emId := rfl
@[simp] theorem State.emptyMailbox_tagValid : (s.emptyMailbox).tagValid = s.tagValid := rfl
@[simp] theorem State.emptyMailbox_session : (s.emptyMailbox).session = s.session := rfl
@[simp] theorem State.emptyMailbox_fieldEn : (s.emptyMailbox).fieldEn = s.fieldEn := rfl
@[simp] theorem State.emptyMailbox_irqEn : (s.emptyMailbox).irqEn = s.irqEn := rfl
@[simp] theorem State.emptyMailbox_startTime : (s.emptyMailbox).startTime = s.startTime := rfl
@[simp] theorem State.emptyMailbox_endTime : (s.emptyMailbox).endTime = s.endTime := rfl
@[simp] theorem State.emptyMailbox_duration : (s.emptyMailbox).duration = s.duration := rfl
@[simp] theorem State.emptyMailbox_protocol : (s.emptyMailbox).protocol = s.protocol := rfl
@[simp] theorem State.emptyMailbox_port : (s.emptyMailbox).port = s.port := rfl
@[simp] theorem State.emptyMailbox_inputs : (s.emptyMailbox).inputs = s.inputs := rfl
@[simp] theorem State.emptyMailbox_result : (s.emptyMailbox).result = s.result := rfl
@[simp] theorem State.emptyMailbox_report : (s.emptyMailbox).report = s.report := rfl

end

/-! ### `State.latchEnd` -/

section
variable (s : State)

@[simp] theorem State.latchEnd_hp : (s.latchEnd).hp = s.hp := rfl
@[simp] theorem State.latchEnd_bc : (s.latchEnd).bc = s.bc := rfl
@[simp] theorem State.latchEnd_np : (s.latchEnd).np = s.np := rfl
@[simp] theorem State.latchEnd_ni : (s.latchEnd).ni = s.ni := rfl
@[simp] theorem State.latchEnd_grp : (s.latchEnd).grp = s.grp := rfl
@[simp] theorem State.latchEnd_raw : (s.latchEnd).raw = s.raw := rfl
@[simp] theorem State.latchEnd_nib : (s.latchEnd).nib = s.nib := rfl
@[simp] theorem State.latchEnd_fo : (s.latchEnd).fo = s.fo := rfl
@[simp] theorem State.latchEnd_frameValid : (s.latchEnd).frameValid = s.frameValid := rfl
@[simp] theorem State.latchEnd_record : (s.latchEnd).record = s.record := rfl
@[simp] theorem State.latchEnd_emId : (s.latchEnd).emId = s.emId := rfl
@[simp] theorem State.latchEnd_tagValid : (s.latchEnd).tagValid = s.tagValid := rfl
@[simp] theorem State.latchEnd_session : (s.latchEnd).session = s.session := rfl
@[simp] theorem State.latchEnd_fieldEn : (s.latchEnd).fieldEn = s.fieldEn := rfl
@[simp] theorem State.latchEnd_irqEn : (s.latchEnd).irqEn = s.irqEn := rfl
@[simp] theorem State.latchEnd_startTime : (s.latchEnd).startTime = s.startTime := rfl
@[simp] theorem State.latchEnd_endTime : (s.latchEnd).endTime = s.port.now := rfl
@[simp] theorem State.latchEnd_duration : (s.latchEnd).duration = s.duration := rfl
@[simp] theorem State.latchEnd_protocol : (s.latchEnd).protocol = s.protocol := rfl
@[simp] theorem State.latchEnd_port : (s.latchEnd).port = s.port := rfl
@[simp] theorem State.latchEnd_inputs : (s.latchEnd).inputs = s.inputs := rfl
@[simp] theorem State.latchEnd_result : (s.latchEnd).result = s.result := rfl
@[simp] theorem State.latchEnd_report : (s.latchEnd).report = s.report := rfl

end

/-! ### `State.storeRecord` -/

section
variable (r : TagRecord) (s : State)

@[simp] theorem State.storeRecord_hp : (s.storeRecord r).hp = s.hp := rfl
@[simp] theorem State.storeRecord_bc : (s.storeRecord r).bc = s.bc := rfl
@[simp] theorem State.storeRecord_np : (s.storeRecord r).np = s.np := rfl
@[simp] theorem State.storeRecord_ni : (s.storeRecord r).ni = s.ni := rfl
@[simp] theorem State.storeRecord_grp : (s.storeRecord r).grp = s.grp := rfl
@[simp] theorem State.storeRecord_raw : (s.storeRecord r).raw = s.raw := rfl
@[simp] theorem State.storeRecord_nib : (s.storeRecord r).nib = s.nib := rfl
@[simp] theorem State.storeRecord_fo : (s.storeRecord r).fo = s.fo := rfl
@[simp] theorem State.storeRecord_frameValid : (s.storeRecord r).frameValid = s.frameValid := rfl
@[simp] theorem State.storeRecord_record : (s.storeRecord r).record = r := rfl
@[simp] theorem State.storeRecord_emId : (s.storeRecord r).emId = s.emId := rfl
@[simp] theorem State.storeRecord_tagValid : (s.storeRecord r).tagValid = true := rfl
@[simp] theorem State.storeRecord_session : (s.storeRecord r).session = s.session := rfl
@[simp] theorem State.storeRecord_fieldEn : (s.storeRecord r).fieldEn = s.fieldEn := rfl
@[simp] theorem State.storeRecord_irqEn : (s.storeRecord r).irqEn = s.irqEn := rfl
@[simp] theorem State.storeRecord_startTime : (s.storeRecord r).startTime = s.startTime := rfl
@[simp] theorem State.storeRecord_endTime : (s.storeRecord r).endTime = s.endTime := rfl
@[simp] theorem State.storeRecord_duration : (s.storeRecord r).duration = s.duration := rfl
@[simp] theorem State.storeRecord_protocol : (s.storeRecord r).protocol = s.protocol := rfl
@[simp] theorem State.storeRecord_port : (s.storeRecord r).port = s.port := rfl
@[simp] theorem State.storeRecord_inputs : (s.storeRecord r).inputs = s.inputs := rfl
@[simp] theorem State.storeRecord_result : (s.storeRecord r).result = s.result := rfl
@[simp] theorem State.storeRecord_report : (s.storeRecord r).report = s.report := rfl

end

/-! ### `State.storeEmId` -/

section
variable (id : BitVec 40) (s : State)

@[simp] theorem State.storeEmId_hp : (s.storeEmId id).hp = s.hp := rfl
@[simp] theorem State.storeEmId_bc : (s.storeEmId id).bc = s.bc := rfl
@[simp] theorem State.storeEmId_np : (s.storeEmId id).np = s.np := rfl
@[simp] theorem State.storeEmId_ni : (s.storeEmId id).ni = s.ni := rfl
@[simp] theorem State.storeEmId_grp : (s.storeEmId id).grp = s.grp := rfl
@[simp] theorem State.storeEmId_raw : (s.storeEmId id).raw = s.raw := rfl
@[simp] theorem State.storeEmId_nib : (s.storeEmId id).nib = s.nib := rfl
@[simp] theorem State.storeEmId_fo : (s.storeEmId id).fo = s.fo := rfl
@[simp] theorem State.storeEmId_frameValid : (s.storeEmId id).frameValid = s.frameValid := rfl
@[simp] theorem State.storeEmId_record : (s.storeEmId id).record = s.record := rfl
@[simp] theorem State.storeEmId_emId : (s.storeEmId id).emId = id := rfl
@[simp] theorem State.storeEmId_tagValid : (s.storeEmId id).tagValid = true := rfl
@[simp] theorem State.storeEmId_session : (s.storeEmId id).session = s.session := rfl
@[simp] theorem State.storeEmId_fieldEn : (s.storeEmId id).fieldEn = s.fieldEn := rfl
@[simp] theorem State.storeEmId_irqEn : (s.storeEmId id).irqEn = s.irqEn := rfl
@[simp] theorem State.storeEmId_startTime : (s.storeEmId id).startTime = s.startTime := rfl
@[simp] theorem State.storeEmId_endTime : (s.storeEmId id).endTime = s.endTime := rfl
@[simp] theorem State.storeEmId_duration : (s.storeEmId id).duration = s.duration := rfl
@[simp] theorem State.storeEmId_protocol : (s.storeEmId id).protocol = s.protocol := rfl
@[simp] theorem State.storeEmId_port : (s.storeEmId id).port = s.port := rfl
@[simp] theorem State.storeEmId_inputs : (s.storeEmId id).inputs = s.inputs := rfl
@[simp] theorem State.storeEmId_result : (s.storeEmId id).result = s.result := rfl
@[simp] theorem State.storeEmId_report : (s.storeEmId id).report = s.report := rfl

end

/-! ### `State.present` -/

section
variable (p : PortInput) (s : State)

@[simp] theorem State.present_hp : (s.present p).hp = s.hp := rfl
@[simp] theorem State.present_bc : (s.present p).bc = s.bc := rfl
@[simp] theorem State.present_np : (s.present p).np = s.np := rfl
@[simp] theorem State.present_ni : (s.present p).ni = s.ni := rfl
@[simp] theorem State.present_grp : (s.present p).grp = s.grp := rfl
@[simp] theorem State.present_raw : (s.present p).raw = s.raw := rfl
@[simp] theorem State.present_nib : (s.present p).nib = s.nib := rfl
@[simp] theorem State.present_fo : (s.present p).fo = s.fo := rfl
@[simp] theorem State.present_frameValid : (s.present p).frameValid = s.frameValid := rfl
@[simp] theorem State.present_record : (s.present p).record = s.record := rfl
@[simp] theorem State.present_emId : (s.present p).emId = s.emId := rfl
@[simp] theorem State.present_tagValid : (s.present p).tagValid = s.tagValid := rfl
@[simp] theorem State.present_session : (s.present p).session = s.session := rfl
@[simp] theorem State.present_fieldEn : (s.present p).fieldEn = s.fieldEn := rfl
@[simp] theorem State.present_irqEn : (s.present p).irqEn = s.irqEn := rfl
@[simp] theorem State.present_startTime : (s.present p).startTime = s.startTime := rfl
@[simp] theorem State.present_endTime : (s.present p).endTime = s.endTime := rfl
@[simp] theorem State.present_duration : (s.present p).duration = s.duration := rfl
@[simp] theorem State.present_protocol : (s.present p).protocol = s.protocol := rfl
@[simp] theorem State.present_port : (s.present p).port = s.port := rfl
@[simp] theorem State.present_inputs : (s.present p).inputs = p :: s.inputs := rfl
@[simp] theorem State.present_result : (s.present p).result = s.result := rfl
@[simp] theorem State.present_report : (s.present p).report = s.report := rfl

end

end Sys2Proof.Machine
end

