-- ==== Sys2Proof/Laws/Ops.lean ====
section
/-! SUPPORT. What each shared operation can do, said once. -/

namespace Sys2Proof.Machine

/-! ### Taking an exception (60_exceptions.md R258) -/

@[simp] theorem State.raise_framingMismatch (s : State) :
    s.raise .framingMismatch = { s with hp := 0#4 }.answer .ok := rfl

@[simp] theorem State.raise_nibbleParity (s : State) :
    s.raise .nibbleParity =
      { s with hp := 0#4, bc := 0#8, np := 0#3, ni := 0#4, grp := 0#4, nib := zeroNibbles }.answer .checksumRetry :=
  rfl

@[simp] theorem State.raise_crcMismatch (s : State) :
    s.raise .crcMismatch = s.emptyMailbox.answer .checksumFailure := rfl

@[simp] theorem State.raise_sessionMisuse (s : State) : s.raise .sessionMisuse = s.answer .sessionBusy := rfl

@[simp] theorem State.raise_noFrame (s : State) : s.raise .noFrame = s.answer .noFrame := rfl

@[simp] theorem State.raise_badOp (s : State) : s.raise .badOp = s.answer .badOp := rfl

@[simp] theorem State.raise_ignored (s : State) : s.raise .ignored = s.answer .ignored := rfl

/-! ### The ports of a step -/

theorem State.fetch_nil {s : State} (h : s.inputs = []) :
    s.fetch = { s with port := idleInput s.port.now } := by
  simp [State.fetch, h]

theorem State.fetch_cons {s : State} {p : PortInput} {rest : List PortInput} (h : s.inputs = p :: rest) :
    s.fetch = { s with port := p, inputs := rest } := by
  simp [State.fetch, h]

/-- A fetch moves the ports and the input list, and nothing else. -/
theorem State.fetch_cases (s : State) :
    ∃ p rest, s.fetch = { s with port := p, inputs := rest } := by
  cases h : s.inputs with
  | nil => exact ⟨idleInput s.port.now, [], by rw [State.fetch_nil h, ← h]⟩
  | cons p rest => exact ⟨p, rest, State.fetch_cons h⟩

theorem step_of_rst {s : State} (h : s.fetch.port.rst = true) : step s = .next s.fetch.resetStep := by
  simp [step, h]

theorem step_of_no_rst {s : State} (h : s.fetch.port.rst = false) : step s = exec s.fetch.current s.fetch := by
  simp [step, h]

/-- The operation the ports ask for belongs to the build. -/
theorem State.current_wf (s : State) : s.current.wf s.protocol = true := by
  unfold State.current
  generalize s.protocol = p
  generalize s.port.ev = ev
  cases p <;> revert ev <;> decide

/-! ### The meaning each arm of `exec` calls -/

@[simp] theorem exec_nop (s : State) : exec .nop s = .next (s.answer .ok) := rfl

@[simp] theorem exec_sampleFdxb (d : Bool) (s : State) : exec (.sampleFdxb d) s = .next (s.sampleFdxb d) := rfl

@[simp] theorem exec_sampleEm4100 (d : Bool) (s : State) : exec (.sampleEm4100 d) s = .next (s.sampleEm4100 d) := rfl

@[simp] theorem exec_activate (s : State) : exec .activate s = .next s.activate := rfl

@[simp] theorem exec_deactivate (s : State) : exec .deactivate s = .next s.deactivate := rfl

@[simp] theorem exec_format (s : State) : exec .format s = .next s.format := rfl

@[simp] theorem exec_reserved1 (s : State) : exec .reserved1 s = .next (s.answer .badOp) := rfl

@[simp] theorem exec_reserved5 (s : State) : exec .reserved5 s = .next (s.answer .badOp) := rfl

@[simp] theorem exec_reserved7 (s : State) : exec .reserved7 s = .next (s.answer .badOp) := rfl

@[simp] theorem exec_reserved9 (s : State) : exec .reserved9 s = .next (s.answer .badOp) := rfl

@[simp] theorem exec_reservedAB (x : Bool) (s : State) : exec (.reservedAB x) s = .next (s.answer .badOp) := rfl

@[simp] theorem exec_reservedCF (x : BitVec 2) (s : State) : exec (.reservedCF x) s = .next (s.answer .badOp) := rfl

/-! ### What an operation with cases can do -/

/-- Everything the data phase of an FDXB build can do (40_acquisition_fdxb.md R134, R135). -/
theorem State.takeFdxbBit_cases (d : Bool) (s : State) :
    (s.bc.toNat < 127 ∧ s.takeFdxbBit d = (s.storeFdxbBit d).answer .ok) ∨
    (127 ≤ s.bc.toNat ∧ s.takeFdxbBit d = (s.completeFdxb d).answer .frameComplete) := by
  unfold State.takeFdxbBit
  split
  · exact .inr ⟨by omega, rfl⟩
  · exact .inl ⟨by omega, rfl⟩

/-- Everything `SAMPLE` of an FDXB build can do (40_acquisition_fdxb.md R131). -/
theorem State.sampleFdxb_cases (d : Bool) (s : State) :
    (s.irqEn = false ∧ s.sampleFdxb d = s.answer .ignored) ∨
    (s.irqEn = true ∧ s.hp < 10#4 ∧ d = false ∧ s.sampleFdxb d = { s with hp := s.hp + 1#4 }.answer .ok) ∨
    (s.irqEn = true ∧ s.hp < 10#4 ∧ d = true ∧ s.sampleFdxb d = { s with hp := 0#4 }.answer .ok) ∨
    (s.irqEn = true ∧ s.hp = 10#4 ∧ d = true ∧ s.sampleFdxb d = { s with hp := 11#4 }.answer .ok) ∨
    (s.irqEn = true ∧ s.hp = 10#4 ∧ d = false ∧ s.sampleFdxb d = { s with hp := 0#4 }.answer .ok) ∨
    (s.irqEn = true ∧ 10#4 < s.hp ∧ s.bc.toNat < 127 ∧ s.sampleFdxb d = (s.storeFdxbBit d).answer .ok) ∨
    (s.irqEn = true ∧ 10#4 < s.hp ∧ 127 ≤ s.bc.toNat ∧
      s.sampleFdxb d = (s.completeFdxb d).answer .frameComplete) := by
  unfold State.sampleFdxb
  rcases Bool.eq_false_or_eq_true s.irqEn with hi | hi
  swap
  · exact .inl ⟨hi, by rw [hi]; rfl⟩
  refine .inr ?_
  by_cases h1 : s.hp < 10#4
  · rw [if_neg (by simp [hi]), if_pos h1]
    cases d
    · exact .inl ⟨hi, h1, rfl, rfl⟩
    · exact .inr (.inl ⟨hi, h1, rfl, rfl⟩)
  rw [if_neg (by simp [hi]), if_neg h1]
  by_cases h2 : s.hp = 10#4
  · rw [if_pos h2]
    cases d
    · exact .inr (.inr (.inr (.inl ⟨hi, h2, rfl, rfl⟩)))
    · exact .inr (.inr (.inl ⟨hi, h2, rfl, rfl⟩))
  rw [if_neg h2]
  have h3 : 10#4 < s.hp := by bv_omega
  obtain ⟨hb, e⟩ | ⟨hb, e⟩ := s.takeFdxbBit_cases d
  · exact .inr (.inr (.inr (.inr (.inl ⟨hi, h3, hb, e⟩))))
  · exact .inr (.inr (.inr (.inr (.inr ⟨hi, h3, hb, e⟩))))

/-- Everything the count of payload bits can do (41_acquisition_em4100.md R151, R158). -/
theorem State.countEmBit_cases (s : State) :
    (s.bc.toNat = 54 ∧ s.countEmBit = s.completeEm.answer .frameComplete) ∨
    (s.bc.toNat ≠ 54 ∧ s.countEmBit = { s with bc := s.bc + 1#8 }.answer .ok) := by
  unfold State.countEmBit
  split
  · exact .inl ⟨by omega, rfl⟩
  · exact .inr ⟨by omega, rfl⟩

/-- Everything `SAMPLE` of an EM4100 build can do (41_acquisition_em4100.md R151). -/
theorem State.sampleEm4100_cases (d : Bool) (s : State) :
    (s.irqEn = false ∧ s.sampleEm4100 d = s.answer .ignored) ∨
    (s.irqEn = true ∧ s.hp < 9#4 ∧ d = true ∧ s.sampleEm4100 d = { s with hp := s.hp + 1#4 }.answer .ok) ∨
    (s.irqEn = true ∧ s.hp < 9#4 ∧ d = false ∧ s.sampleEm4100 d = { s with hp := 0#4 }.answer .ok) ∨
    (s.irqEn = true ∧ 9#4 ≤ s.hp ∧ s.ni < 10#4 ∧ s.np < 4#3 ∧
      s.sampleEm4100 d = (s.storeEmBit d).countEmBit) ∨
    (s.irqEn = true ∧ 9#4 ≤ s.hp ∧ s.ni < 10#4 ∧ 4#3 ≤ s.np ∧ d = xor4 s.grp ∧
      s.sampleEm4100 d = s.storeNibble.countEmBit) ∨
    (s.irqEn = true ∧ 9#4 ≤ s.hp ∧ s.ni < 10#4 ∧ 4#3 ≤ s.np ∧ d ≠ xor4 s.grp ∧
      s.sampleEm4100 d = s.raise .nibbleParity) ∨
    (s.irqEn = true ∧ 9#4 ≤ s.hp ∧ 10#4 ≤ s.ni ∧ s.sampleEm4100 d = s.countEmBit) := by
  unfold State.sampleEm4100
  rcases Bool.eq_false_or_eq_true s.irqEn with hi | hi
  swap
  · exact .inl ⟨hi, by rw [hi]; rfl⟩
  refine .inr ?_
  by_cases h1 : s.hp < 9#4
  · rw [if_neg (by simp [hi]), if_pos h1]
    cases d
    · exact .inr (.inl ⟨hi, h1, rfl, rfl⟩)
    · exact .inl ⟨hi, h1, rfl, rfl⟩
  rw [if_neg (by simp [hi]), if_neg h1]
  have h1' : 9#4 ≤ s.hp := by bv_omega
  unfold State.takeEmBit
  by_cases h2 : s.ni < 10#4
  · rw [if_pos h2]
    by_cases h3 : s.np < 4#3
    · rw [if_pos h3]
      exact .inr (.inr (.inl ⟨hi, h1', h2, h3, rfl⟩))
    rw [if_neg h3]
    have h3' : 4#3 ≤ s.np := by bv_omega
    by_cases h4 : d = xor4 s.grp
    · rw [if_neg (by simp [h4])]
      exact .inr (.inr (.inr (.inl ⟨hi, h1', h2, h3', h4, rfl⟩)))
    · rw [if_pos (by simpa using h4)]
      exact .inr (.inr (.inr (.inr (.inl ⟨hi, h1', h2, h3', h4, rfl⟩))))
  · rw [if_neg h2]
    exact .inr (.inr (.inr (.inr (.inr ⟨hi, h1', by bv_omega, rfl⟩))))

/-- Everything `FORMAT` can do (43_formatter.md R190). -/
theorem State.format_cases (s : State) :
    (s.frameValid = false ∧ s.format = s.answer .noFrame) ∨
    (s.frameValid = true ∧ crcMatches s.fo = true ∧
      s.format = (s.emptyMailbox.storeRecord (recordOf s.fo)).answer .recordOk) ∨
    (s.frameValid = true ∧ crcMatches s.fo = false ∧ s.format = s.emptyMailbox.answer .checksumFailure) := by
  unfold State.format
  cases h1 : s.frameValid
  · exact .inl ⟨rfl, rfl⟩
  · cases h2 : crcMatches s.fo
    · exact .inr (.inr ⟨rfl, rfl, rfl⟩)
    · exact .inr (.inl ⟨rfl, rfl, rfl⟩)

/-- Everything `ACTIVATE` can do (44_session.md R222, R223). -/
theorem State.activate_cases (s : State) :
    (s.session = .active ∧ s.activate = s.answer .sessionBusy) ∨
    (s.session = .idle ∧ s.activate = s.openSession.answer .ok) := by
  unfold State.activate
  cases h : s.session
  · exact .inr ⟨rfl, rfl⟩
  · exact .inl ⟨rfl, rfl⟩

/-- Everything `DEACTIVATE` does (44_session.md R224, R229). -/
theorem State.deactivate_eq (s : State) :
    s.deactivate =
      { s.clearDecoder with
        fieldEn := false, irqEn := false, session := .idle, duration := s.endTime - s.startTime,
        result := some .ok, report := some ⟨s.tagValid, tag64 s, s.endTime - s.startTime⟩ } := rfl

end Sys2Proof.Machine
end

