-- ==== Sys2Proof/Laws/PerInstr.lean ====
section
/-! SUPPORT. Statements about every operation as syntax, one lemma per constructor. -/

namespace Sys2Proof.Laws.TableRow

/-- The event word of the operation matches its row of spec/opcode_table.json, whatever the operands. -/
def Statement (i : Instr) : Prop := encode i &&& (tableRow i).mask = (tableRow i).bits

theorem nop : Statement .nop := by unfold Statement; decide

theorem sampleFdxb (d : Bool) : Statement (.sampleFdxb d) := by unfold Statement; cases d <;> decide

theorem sampleEm4100 (d : Bool) : Statement (.sampleEm4100 d) := by unfold Statement; cases d <;> decide

theorem activate : Statement .activate := by unfold Statement; decide

theorem deactivate : Statement .deactivate := by unfold Statement; decide

theorem format : Statement .format := by unfold Statement; decide

theorem reserved1 : Statement .reserved1 := by unfold Statement; decide

theorem reserved5 : Statement .reserved5 := by unfold Statement; decide

theorem reserved7 : Statement .reserved7 := by unfold Statement; decide

theorem reserved9 : Statement .reserved9 := by unfold Statement; decide

theorem reservedAB (x : Bool) : Statement (.reservedAB x) := by unfold Statement; cases x <;> decide

theorem reservedCF (x : BitVec 2) : Statement (.reservedCF x) := by unfold Statement; revert x; decide

end Sys2Proof.Laws.TableRow
end

