-- ==== Sys2Proof/Laws/Ports.lean ====
section
/-! SUPPORT. What the pin-level wrapper presents, case by case. -/

namespace Sys2Proof.Machine

/-! ### The host's request -/

theorem Pins.hostRequest_of_hostMay {p : Pins} {i : Instr} (h : p.request = some i) (hm : i.hostMay = true) :
    p.hostRequest = some i := by
  simp [Pins.hostRequest, h, hm]

theorem Pins.hostRequest_of_not_hostMay {p : Pins} {i : Instr} (h : p.request = some i) (hm : i.hostMay = false) :
    p.hostRequest = none := by
  simp [Pins.hostRequest, h, hm]

/-- No operation comes from the host's request lines but one it may issue. -/
theorem Pins.hostMay_of_hostRequest {p : Pins} {i : Instr} (h : p.hostRequest = some i) : i.hostMay = true := by
  unfold Pins.hostRequest at h
  exact (Option.filter_eq_some_iff.mp h).2

/-- Whatever the host may issue, both builds have. -/
theorem wf_of_hostMay (p : Protocol) {i : Instr} (h : i.hostMay = true) : i.wf p = true := by
  cases i <;> first | rfl | cases h

/-- The event word of an operation the host may issue is no edge's. -/
theorem opField_encode_of_hostMay {i : Instr} (h : i.hostMay = true) : (opField (encode i) == 0b001#3) = false := by
  cases i with
  | reservedAB x => revert x; decide
  | reservedCF x => revert x; decide
  | sampleFdxb d => cases h
  | sampleEm4100 d => cases h
  | _ => decide

/-- The request adds no edge. -/
theorem Pins.countP_requestAfter (p : Pins) (waiting : List PortInput) :
    (p.requestAfter waiting).countP PortInput.isEdge = 0 := by
  unfold Pins.requestAfter
  cases h : p.hostRequest with
  | none => rfl
  | some i => simp [PortInput.isEdge, opField_encode_of_hostMay (Pins.hostMay_of_hostRequest h)]

@[simp] theorem Pins.still_requestAfter (p : Pins) (waiting : List PortInput) :
    p.still.requestAfter waiting = p.requestAfter waiting := rfl

/-! ### The edge -/

@[simp] theorem edgeTaken_still (edge : ClkEdge) (level : Bool) : edgeTaken edge level level = false := by
  cases edge <;> cases level <;> rfl

@[simp] theorem Pins.edgeEvents_off (edge : ClkEdge) (p : Pins) : p.edgeEvents edge false = [] := rfl

@[simp] theorem Pins.edgeEvents_still (edge : ClkEdge) (takes : Bool) (p : Pins) :
    p.still.edgeEvents edge takes = [] := by
  simp [Pins.edgeEvents, Pins.still]

theorem Pins.edgeEvents_on {edge : ClkEdge} {p : Pins} (h : edgeTaken edge p.clkBefore p.clkAfter = true) :
    p.edgeEvents edge true = [⟨eventWord 0b001#3 p.data, p.now, false⟩] := by
  simp [Pins.edgeEvents, h]

@[simp] theorem PortInput.isEdge_sample (d : Bool) (now : Ticks) (rst : Bool) :
    (PortInput.mk (eventWord 0b001#3 d) now rst).isEdge = true := by
  change (opField (eventWord 0b001#3 d) == 0b001#3) = true
  revert d
  decide

@[simp] theorem postpone_nil (nowNext : Ticks) : postpone nowNext [] = [] := rfl

@[simp] theorem countP_postpone (nowNext : Ticks) (waiting : List PortInput) :
    (postpone nowNext waiting).countP PortInput.isEdge = waiting.countP PortInput.isEdge := by
  cases waiting <;> rfl

/-- An edge that is taken has the very next step. -/
theorem State.withEdge_taken {edge : ClkEdge} {p : Pins} {s : State} (ht : s.takesEdge = true)
    (h : edgeTaken edge p.clkBefore p.clkAfter = true) :
    s.withEdge edge p = ⟨eventWord 0b001#3 p.data, p.now, false⟩ :: postpone p.nowNext s.inputs := by
  simp [State.withEdge, ht, Pins.edgeEvents_on h]

/-- An edge that is not taken leaves nothing behind. -/
theorem State.withEdge_lost {edge : ClkEdge} {p : Pins} {s : State} (ht : s.takesEdge = false) :
    s.withEdge edge p = s.inputs := by
  simp [State.withEdge, ht]

@[simp] theorem State.withEdge_still (edge : ClkEdge) (p : Pins) (s : State) : s.withEdge edge p.still = s.inputs := by
  simp [State.withEdge]

/-- An edge that is not taken is as if the clock line had not moved. -/
theorem State.presentPins_lost {edge : ClkEdge} {p : Pins} {s : State} (ht : s.takesEdge = false) :
    s.presentPins edge p = s.presentPins edge p.still := by
  simp [State.presentPins, State.withEdge_lost ht]

end Sys2Proof.Machine
end

