-- ==== Sys2Proof/Laws/Run.lean ====
section
/-! SUPPORT. Runs of several steps, runs of `SAMPLE` steps, and where a bit stream holds a header. -/

namespace Sys2Proof.Machine

@[simp] theorem runSteps_zero (s : State) : runSteps 0 s = .next s := rfl

theorem runSteps_succ {s t : State} (k : Nat) (h : step s = .next t) : runSteps (k + 1) s = runSteps k t := by
  simp [runSteps, h]

/-- A run is the run of the host's interface. -/
theorem runSteps_eq_core_run (k : Nat) (s : State) : runSteps k s = core.run k s := by
  induction k generalizing s with
  | zero => rfl
  | succ k ih =>
    simp only [runSteps, Host.Core.run, core]
    cases step s with
    | next t => exact ih t
    | fault r => rfl
    | refused r => rfl

/-- A run in two parts. -/
theorem runSteps_add {m : Nat} {s t : State} (n : Nat) (h : runSteps m s = .next t) :
    runSteps (m + n) s = runSteps n t := by
  induction m generalizing s with
  | zero => rw [Nat.zero_add]; cases h; rfl
  | succ m ih =>
    rw [Nat.succ_add]
    simp only [runSteps] at h ⊢
    cases hs : step s <;> simp only [hs] at h ⊢
    · exact ih h
    · cases h
    · cases h

theorem sampleInputs_append (a b : List (Bool × Ticks)) :
    sampleInputs (a ++ b) = sampleInputs a ++ sampleInputs b := by
  simp [sampleInputs]

/-- The event word of `SAMPLE d` is the `SAMPLE` of the build. -/
theorem decode_sample (p : Protocol) (d : Bool) : decode p (eventWord 0b001#3 d) = sampleOf p d := by
  cases p <;> cases d <;> decide

/-- The state in which the next line level of a stream is sampled. -/
def State.atSample (b : Bool × Ticks) (rest : List PortInput) (s : State) : State :=
  { s with port := ⟨eventWord 0b001#3 b.1, b.2, false⟩, inputs := rest }

/-- The step that takes the next line level of a stream. -/
theorem step_sample {s : State} {b : Bool × Ticks} {bs : List (Bool × Ticks)} {rest : List PortInput}
    (h : s.inputs = sampleInputs (b :: bs) ++ rest) :
    step s = exec (sampleOf s.protocol b.1) (s.atSample b (sampleInputs bs ++ rest)) := by
  have hf : s.fetch = s.atSample b (sampleInputs bs ++ rest) := State.fetch_cons h
  have hr : s.fetch.port.rst = false := by rw [hf]; rfl
  rw [step_of_no_rst hr, hf, State.current]
  exact congrArg (exec · _) (decode_sample _ _)

/-- The same, in an FDXB build. -/
theorem runSteps_sampleFdxb {s : State} {b : Bool × Ticks} {bs : List (Bool × Ticks)} {rest : List PortInput}
    (n : Nat) (hp : s.protocol = .fdxb) (h : s.inputs = sampleInputs (b :: bs) ++ rest) :
    runSteps (n + 1) s = runSteps n ((s.atSample b (sampleInputs bs ++ rest)).sampleFdxb b.1) := by
  refine runSteps_succ n ?_
  rw [step_sample h, hp]
  rfl

/-- The same, in an EM4100 build. -/
theorem runSteps_sampleEm4100 {s : State} {b : Bool × Ticks} {bs : List (Bool × Ticks)} {rest : List PortInput}
    (n : Nat) (hp : s.protocol = .em4100) (h : s.inputs = sampleInputs (b :: bs) ++ rest) :
    runSteps (n + 1) s = runSteps n ((s.atSample b (sampleInputs bs ++ rest)).sampleEm4100 b.1) := by
  refine runSteps_succ n ?_
  rw [step_sample h, hp]
  rfl

/-! ### Runs in which no frame completes -/

@[simp] theorem runsWithoutCompletion_zero (s u : State) : RunsWithoutCompletion 0 s u ↔ u = s := Iff.rfl

theorem runsWithoutCompletion_succ (k : Nat) (s u : State) :
    RunsWithoutCompletion (k + 1) s u ↔
      ∃ t, step s = .next t ∧ t.result ≠ some .frameComplete ∧ RunsWithoutCompletion k t u := Iff.rfl

/-- Such a run is a run. -/
theorem RunsWithoutCompletion.runSteps {k : Nat} {s u : State} (h : RunsWithoutCompletion k s u) :
    runSteps k s = .next u := by
  induction k generalizing s with
  | zero => cases h; rfl
  | succ k ih =>
    obtain ⟨t, ht, -, hu⟩ := h
    rw [runSteps_succ k ht, ih hu]

/-! ### Where a stream holds an FDXB header (40_acquisition_fdxb.md R133) -/

@[simp] theorem holdsHeaderAfter_nil (n : Nat) : holdsHeaderAfter n [] = false := rfl

@[simp] theorem holdsHeaderAfter_false (n : Nat) (bits : List Bool) :
    holdsHeaderAfter n (false :: bits) = holdsHeaderAfter (n + 1) bits := rfl

@[simp] theorem holdsHeaderAfter_true (n : Nat) (bits : List Bool) :
    holdsHeaderAfter n (true :: bits) = (n % 11 == 10 || holdsHeaderAfter 0 bits) := rfl

theorem holdsHeaderAfter_zeros (m n : Nat) (bits : List Bool) :
    holdsHeaderAfter m (List.replicate n false ++ bits) = holdsHeaderAfter (m + n) bits := by
  induction n generalizing m with
  | zero => simp
  | succ n ih => rw [List.replicate_succ, List.cons_append, holdsHeaderAfter_false, ih, Nat.add_right_comm, Nat.add_assoc]

/-- A stream holds a header exactly where a `1` ends a run of `n` zeros, `n mod 11 = 10`, that begins the stream or
follows a `1`. -/
theorem holdsHeaderFdxb_iff (bits : List Bool) :
    holdsHeaderFdxb bits = true ↔
      ∃ before n rest, bits = before ++ (List.replicate n false ++ true :: rest) ∧
        (before = [] ∨ ∃ b, before = b ++ [true]) ∧ n % 11 = 10 := by
  have key : ∀ (bits : List Bool) (m : Nat), holdsHeaderAfter m bits = true ↔
      ∃ before n rest, List.replicate m false ++ bits = before ++ (List.replicate n false ++ true :: rest) ∧
        (before = [] ∨ ∃ b, before = b ++ [true]) ∧ n % 11 = 10 := by
    intro bits
    induction bits with
    | nil =>
      intro m
      simp only [holdsHeaderAfter_nil, Bool.false_eq_true, List.append_nil, false_iff]
      rintro ⟨before, n, rest, h, -, -⟩
      have : true ∈ List.replicate m false := by rw [h]; simp
      simp at this
    | cons b bs ih =>
      intro m
      cases b
      · rw [holdsHeaderAfter_false, ih, List.replicate_succ', List.append_assoc]
        rfl
      · rw [holdsHeaderAfter_true, Bool.or_eq_true, ih]
        constructor
        · rintro (h | ⟨before, n, rest, h, hb, hn⟩)
          · exact ⟨[], m, bs, by simp, .inl rfl, by simpa using h⟩
          · refine ⟨List.replicate m false ++ true :: before, n, rest, ?_, .inr ?_, hn⟩
            · simp only [List.replicate_zero, List.nil_append] at h
              rw [h]; simp
            · obtain rfl | ⟨c, rfl⟩ := hb
              · exact ⟨List.replicate m false, rfl⟩
              · exact ⟨List.replicate m false ++ true :: c, by simp⟩
        · rintro ⟨before, n, rest, h, hb, hn⟩
          rcases List.append_eq_append_iff.mp h with ⟨c, h1, h2⟩ | ⟨c, h1, h2⟩
          · -- the run of zeros at the front lies inside `before`
            subst h1
            cases c with
            | nil =>
              cases n with
              | zero => simp at hn
              | succ n => simp [List.replicate_succ] at h2
            | cons x c =>
              simp only [List.cons_append, List.cons.injEq] at h2
              obtain ⟨rfl, h2⟩ := h2
              refine .inr ⟨c, n, rest, by simpa using h2, ?_, hn⟩
              obtain h3 | ⟨d, h3⟩ := hb
              · simp at h3
              · rcases List.eq_nil_or_concat c with rfl | ⟨e, x, rfl⟩
                · exact .inl rfl
                · have h4 : (List.replicate m false ++ true :: e) ++ [x] = d ++ [true] := by rw [← h3]; simp
                  have h5 := (List.append_inj' h4 rfl).2
                  simp only [List.cons.injEq, and_true] at h5
                  exact .inr ⟨e, by rw [h5]; simp⟩
          · -- the header's run of zeros holds the end of the front
            have hbn : before = [] := by
              obtain h3 | ⟨d, h3⟩ := hb
              · exact h3
              · have : true ∈ List.replicate m false := by rw [h1, h3]; simp
                simp at this
            subst hbn
            simp only [List.nil_append] at h1
            subst h1
            have hmn : m = n := by
              have h6 := congrArg (List.takeWhile (! ·)) h
              simpa [List.takeWhile_append, List.takeWhile_replicate] using congrArg List.length h6
            subst hmn
            exact .inl (by simp [hn])
  simpa [holdsHeaderFdxb] using key bits 0

/-- A stream in which ten `0` and a `1` occur nowhere holds no header. -/
theorem holdsHeaderFdxb_of_no_infix {bits : List Bool} (h : ¬ headerFdxb <:+: bits) : holdsHeaderFdxb bits = false := by
  rw [Bool.eq_false_iff]
  intro hh
  obtain ⟨before, n, rest, rfl, -, hn⟩ := (holdsHeaderFdxb_iff bits).mp hh
  refine h ⟨before ++ List.replicate (n - 10) false, rest, ?_⟩
  obtain ⟨m, rfl⟩ : ∃ m, n = m + 10 := ⟨n - 10, by omega⟩
  rw [headerFdxb, Nat.add_sub_cancel, List.replicate_add]
  simp only [List.append_assoc, List.cons_append, List.nil_append]

end Sys2Proof.Machine
end

