-- ==== Sys2Proof/Tests/Slice0.lean ====
section
/-! SUPPORT. Tests of the model against the spec's own words and vectors (30_encoding.md R111; 95_test_vectors.md),
and for every statement with hypotheses a state that meets them. -/

open Sys2Proof Sys2Proof.Machine

namespace Sys2Proof.Tests

/-! ## Helpers -/

/-- The state of an outcome. -/
def nextOf : Host.Outcome State Fault Refusal → Option State
  | .next s => some s
  | .fault _ => none
  | .refused _ => none

/-- What a step leaves in one field. -/
def after {α : Type} (i : Instr) (s : State) (f : State → α) : Option α := (nextOf (exec i s)).map f

/-- An Active session in which nothing was sampled: the state after `ACT@0`. -/
def live (p : Protocol) : State :=
  { State.resetOf p with session := .active, fieldEn := true, irqEn := true }

/-- The frame of V-FMT-1. -/
def frameA : Frame := 0x801569A44B5DD3C0407F3DCDF6663514#128

/-- The frame of V-FMT-6: fixture A with every ignored bit inverted, from its 128-character string. -/
def frameA6 : Frame := 0xFFE561A0495CD340005F2DC5F2643414#128

/-- The frame of V-FMT-7: fixture A with `fo[0]` flipped. -/
def frameA7 : Frame := 0x801569A44B5DD3C0407F3DCDF6663515#128

/-- The frame of V-FMT-11: fixture A with `fo[90]` flipped. -/
def frameA11 : Frame := frameA ^^^ (1#128 <<< 90)

/-- A reset FDXB block with a frame in the mailbox. -/
def holding (f : Frame) : State := { State.resetOf .fdxb with fo := f, frameValid := true }

/-- A stream of line levels, all at one timer value, presented to a state. -/
def stream (bits : List Bool) : List (Bool × Ticks) := bits.map fun b => (b, 5#32)

theorem stream_fst (bits : List Bool) : (stream bits).map Prod.fst = bits := by
  simp [stream, Function.comp_def]

/-- A state to which a stream is presented. -/
def fed (s : State) (bits : List Bool) : State := { s with inputs := sampleInputs (stream bits) }

/-! ## Well-formedness: what a build does not have is refused -/

theorem test_wf_fdxb_sample : (Instr.sampleFdxb true).wf .fdxb = true := by decide
theorem test_wf_em_sample_refused_in_fdxb : (Instr.sampleEm4100 true).wf .fdxb = false := by decide
theorem test_wf_fdxb_sample_refused_in_em : (Instr.sampleFdxb false).wf .em4100 = false := by decide
theorem test_host_may_not_sample :
    (Instr.sampleFdxb true).hostMay = false ∧ (Instr.sampleEm4100 true).hostMay = false := by decide
theorem test_host_may_activate : Instr.activate.hostMay = true := by decide
theorem test_number_wider_than_the_port : decodeNumber .fdxb 16 = .error .widerThanThePort := by decide
theorem test_table_word_wider_than_the_port : decodeTableWord 8 0x10 = none := by decide
theorem test_format_is_not_reserved : Instr.format.isReserved = false := by decide

/-! ## Decoding: the words of 30_encoding.md R111, bit by bit -/

theorem test_decode_nop : decode .fdxb 0b0000#4 = .nop := by decide
theorem test_decode_sample_0 : decode .fdxb 0b0010#4 = .sampleFdxb false := by decide
theorem test_decode_sample_1 : decode .fdxb 0b0011#4 = .sampleFdxb true := by decide
theorem test_decode_em_sample_0 : decode .em4100 0b0010#4 = .sampleEm4100 false := by decide
theorem test_decode_em_sample_1 : decode .em4100 0b0011#4 = .sampleEm4100 true := by decide
theorem test_decode_activate : decode .em4100 0b0100#4 = .activate := by decide
theorem test_decode_deactivate : decode .fdxb 0b0110#4 = .deactivate := by decide
theorem test_decode_format : decode .fdxb 0b1000#4 = .format := by decide
theorem test_decode_reserved1 : decode .fdxb 0b0001#4 = .reserved1 := by decide
theorem test_decode_reserved5 : decode .fdxb 0b0101#4 = .reserved5 := by decide
theorem test_decode_reserved7 : decode .em4100 0b0111#4 = .reserved7 := by decide
theorem test_decode_reserved9 : decode .fdxb 0b1001#4 = .reserved9 := by decide
theorem test_decode_reservedA : decode .fdxb 0b1010#4 = .reservedAB false := by decide
theorem test_decode_reservedB : decode .fdxb 0b1011#4 = .reservedAB true := by decide
theorem test_decode_reservedC : decode .fdxb 0b1100#4 = .reservedCF 0b00#2 := by decide
theorem test_decode_reservedD : decode .fdxb 0b1101#4 = .reservedCF 0b01#2 := by decide
theorem test_decode_reservedE : decode .fdxb 0b1110#4 = .reservedCF 0b10#2 := by decide
theorem test_decode_reservedF : decode .em4100 0b1111#4 = .reservedCF 0b11#2 := by decide

/-- Every word lies in the table row of the operation it decodes to, in both builds. -/
theorem test_every_word_is_in_its_row :
    ∀ (p : Fin 2) (ev : EventWord),
      ev &&& (tableRow (decode (if p = 0 then .fdxb else .em4100) ev)).mask
        = (tableRow (decode (if p = 0 then .fdxb else .em4100) ev)).bits := by decide

/-- The header lengths of 00_scope.md R8. -/
theorem test_header_lengths :
    headerFdxb.length = Config.headerLen .fdxb ∧ headerEm.length = Config.headerLen .em4100 := by decide

/-- The frame lengths of 00_scope.md R8. -/
theorem test_frame_lengths :
    (frameBits 0#128).length = Config.frameBits .fdxb ∧
    (groupBits zeroNibbles).length + 5 = Config.frameBits .em4100 := by decide +kernel

/-- The samples to a completion: 40_acquisition_fdxb.md R138 (d), 41_acquisition_em4100.md R162 (c). -/
theorem test_frame_samples : Config.frameSamples .fdxb = 139 ∧ Config.frameSamples .em4100 = 64 := by decide

/-- V-HDR-1, V-HDR-3 and V-HDR-5 hold a header; V-HDR-2, V-HDR-7 and V-HDR-9 hold none. -/
theorem test_streams_with_a_header :
    holdsHeaderFdxb (List.replicate 10 false ++ [true]) = true ∧
    holdsHeaderFdxb (List.replicate 21 false ++ [true]) = true ∧
    holdsHeaderFdxb (List.replicate 9 false ++ true :: headerFdxb) = true := by decide

theorem test_streams_without_a_header :
    holdsHeaderFdxb (List.replicate 11 false ++ [true]) = false ∧
    holdsHeaderFdxb [false, true, false, true, false, true, false, true, false, true] = false ∧
    holdsHeaderFdxb (List.replicate 10 false) = false := by decide

/-! ## The pin level -/

/-- A host that asks for a `SAMPLE`, which is the edge detector's (60_exceptions.md R272), asks for nothing. -/
theorem test_host_cannot_sample :
    ((live .fdxb).presentPins .rising (Pins.mk false false true (some (.sampleFdxb true)) 7#32 8#32)).inputs = [] := by
  decide

/-- Without an edge a request of the host is taken in this step; with `irq_en = 0` an edge is lost (60_exceptions.md
R261). -/
theorem test_request_without_an_edge :
    (State.reset.presentPins .rising (Pins.mk false true true (some .activate) 7#32 8#32)).inputs
      = [⟨0x4#4, 7#32, false⟩] := by decide

/-- Two edges before a step is taken: the second finds no step and is lost (70_reset_and_hazards.md R310). -/
theorem test_second_edge_is_lost :
    (((live .fdxb).presentPins .both (Pins.mk false true true none 7#32 8#32)).presentPins .both
      (Pins.mk true false false none 8#32 9#32)).inputs = [⟨0x3#4, 7#32, false⟩] := by decide

/-- An edge goes before a request that still waits, which is put off by a step (60_exceptions.md R266). -/
theorem test_edge_before_a_waiting_request :
    (({ live .fdxb with inputs := [⟨0x8#4, 8#32, false⟩] } : State).presentPins .rising
      (Pins.mk false true true none 8#32 9#32)).inputs = [⟨0x3#4, 8#32, false⟩, ⟨0x8#4, 9#32, false⟩] := by decide

/-! ## The checksum: section 2.1 of 95_test_vectors.md -/

theorem test_crc_01 : crc16 [0x01#8] 0x8408#16 0x0000#16 = 0x1189#16 := by decide +kernel
theorem test_crc_80 : crc16 [0x80#8] 0x8408#16 0x0000#16 = 0x8408#16 := by decide +kernel
theorem test_crc_ff8 : crc16 (List.replicate 8 0xFF#8) 0x8408#16 0x0000#16 = 0x8765#16 := by decide +kernel
theorem test_crc_check_value :
    crc16 [0x31#8, 0x32#8, 0x33#8, 0x34#8, 0x35#8, 0x36#8, 0x37#8, 0x38#8, 0x39#8] 0x8408#16 0x0000#16
      = 0x2189#16 := by decide +kernel
theorem test_crc_010203 : crc16 [0x01#8, 0x02#8, 0x03#8] 0x8408#16 0x0000#16 = 0x5BF7#16 := by decide +kernel

/-! ## One step of each operation -/

/-- V-FMT-1. -/
theorem test_format_fixture_a :
    after .format (holding frameA) (fun t => (t.record, t.tagValid, t.frameValid, t.result))
      = some (⟨123456789012#38, 999#10, true, true, #v[0x12#8, 0x34#8, 0x56#8]⟩, true, false, some .recordOk) := by
  decide +kernel

/-- V-FMT-7. -/
theorem test_format_corrupted_byte :
    after .format (holding frameA7) (fun t => (t.record, t.tagValid, t.fo, t.result))
      = some (TagRecord.zero, false, 0#128, some .checksumFailure) := by decide +kernel

/-- V-HDR-8: a `0` at the boundary starts over from 0. -/
theorem test_sample_boundary_zero :
    after (.sampleFdxb false) { live .fdxb with hp := 10#4 } (·.hp) = some 0#4 := by decide

/-- V-ACQ-2, the last step: `S1@77`. -/
theorem test_sample_completes :
    after (.sampleFdxb true)
        { live .fdxb with hp := 11#4, bc := 127#8, raw := 0x001569A44B5DD3C0407F3DCDF6663514#128,
                          port := ⟨0x3#4, 77#32, false⟩ }
        (fun t => (t.fo, t.endTime, t.hp, t.raw, t.result))
      = some (frameA, 77#32, 0#4, 0#128, some .frameComplete) := by decide +kernel

/-- V-EMP, nibble 6, the parity bit that agrees. -/
theorem test_em_parity_agrees :
    after (.sampleEm4100 false) { live .em4100 with hp := 9#4, bc := 4#8, np := 4#3, grp := 0x6#4 }
        (fun t => (t.nib[0], t.ni, t.np, t.bc, t.result))
      = some (0x6#4, 1#4, 0#3, 5#8, some .ok) := by decide

/-- V-EMC-1, the last step: the identifier of nibbles 0, 6, 0, 0, 1, 2, 5, 9, E, 3. -/
theorem test_em_completes :
    after (.sampleEm4100 false)
        { live .em4100 with hp := 9#4, bc := 54#8, ni := 10#4,
                            nib := #v[0x0#4, 0x6#4, 0x0#4, 0x0#4, 0x1#4, 0x2#4, 0x5#4, 0x9#4, 0xE#4, 0x3#4],
                            port := ⟨0x2#4, 163#32, false⟩ }
        (fun t => (t.emId, t.tagValid, t.endTime, t.ni, t.result))
      = some (0x06001259E3#40, true, 163#32, 0#4, some .frameComplete) := by decide +kernel

/-- V-SES-1. -/
theorem test_activate :
    after .activate { State.reset with port := ⟨0x4#4, 1000#32, false⟩ }
        (fun t => (t.session, t.fieldEn, t.irqEn, t.startTime, t.result))
      = some (.active, true, true, 1000#32, some .ok) := by decide

/-- V-SES-2. -/
theorem test_activate_twice :
    after .activate { live .fdxb with startTime := 1000#32, port := ⟨0x4#4, 2000#32, false⟩ }
        (fun t => (t.startTime, t.result))
      = some (1000#32, some .sessionBusy) := by decide

/-- V-SES-5: the timer wrapped. -/
theorem test_deactivate_across_the_wrap :
    after .deactivate { live .fdxb with startTime := 0xFFFFFFF0#32, endTime := 0x00000010#32 }
        (fun t => (t.duration, t.session, t.report))
      = some (0x20#32, .idle, some ⟨false, 0#64, 0x20#32⟩) := by decide

/-- V-SES-7. -/
theorem test_nop : after .nop State.reset (·.result) = some (some .ok) := by decide

/-- V-EV-1. -/
theorem test_reserved1 : after .reserved1 State.reset (·.result) = some (some .badOp) := by decide
theorem test_reserved5 : after .reserved5 State.reset (·.result) = some (some .badOp) := by decide
theorem test_reserved7 : after .reserved7 State.reset (·.result) = some (some .badOp) := by decide
theorem test_reserved9 : after .reserved9 State.reset (·.result) = some (some .badOp) := by decide
theorem test_reservedAB : after (.reservedAB true) State.reset (·.result) = some (some .badOp) := by decide
theorem test_reservedCF : after (.reservedCF 0b10#2) State.reset (·.result) = some (some .badOp) := by decide

/-- The status numbers of 30_encoding.md R112. -/
theorem test_status_codes :
    [Status.ok, .frameComplete, .checksumRetry, .recordOk, .checksumFailure, .noFrame, .sessionBusy, .badOp,
      .ignored].map (fun r => r.code.toNat) = [0, 1, 2, 3, 4, 5, 6, 7, 8] := by decide

/-- The word placed by `withFetchWord` is the next step's operation: `0x4` opens the session. -/
theorem test_fetch_word_runs : (nextOf (step (State.reset.withFetchWord 8 0x4))).map (·.session) = some .active := by
  decide

/-- The output ports of an EM4100 build show `em_id` and no record (10_state.md R48). -/
theorem test_output_ports :
    ({ State.resetOf .em4100 with emId := 0x06001259E3#40 } : State).outputs.identity = .em4100 0x06001259E3#40 := by
  decide

/-! ## Witnesses: the hypotheses of each statement can be met -/

theorem inv_reset (p : Protocol) : Inv (State.resetOf p) := by
  cases p <;> exact ⟨by decide, by decide, by decide, by decide, by decide, by decide, by decide⟩

theorem inv_live (p : Protocol) : Inv (live p) := by
  cases p <;> exact ⟨by decide, by decide, by decide, by decide, by decide, by decide, by decide⟩

/-- An EM4100 build whose header is confirmed. -/
def emData : State := { live .em4100 with hp := 9#4 }

theorem inv_emData : Inv emData := by
  exact ⟨by decide, by decide, by decide, by decide, by decide, by decide, by decide⟩

/-- An FDXB build one bit before completion. -/
def fdxbLast : State := { live .fdxb with hp := 11#4, bc := 127#8 }

theorem inv_fdxbLast : Inv fdxbLast := by
  exact ⟨by decide, by decide, by decide, by decide, by decide, by decide, by decide⟩

/-- An EM4100 build one bit before completion. -/
def emLast : State := { live .em4100 with hp := 9#4, bc := 54#8, ni := 10#4 }

theorem inv_emLast : Inv emLast := by
  exact ⟨by decide, by decide, by decide, by decide, by decide, by decide, by decide⟩

theorem test_witness_DecodeOfEncodeIsTheInstruction :
    (Instr.reservedCF 0b11#2).wf .fdxb = true ∧ (Instr.sampleEm4100 true).wf .em4100 = true := by decide

theorem test_witness_StepRunsTheDecodedInstruction :
    let p : PortInput := ⟨0x3#4, 9#32, false⟩
    ({ live .fdxb with inputs := [p] } : State).inputs = p :: [] ∧ p.rst = false ∧
    (Instr.sampleFdxb true).wf (live .fdxb).protocol = true ∧ p.ev = encode (.sampleFdxb true) := by decide

theorem test_witness_StepWithNothingPresentedIsIdle : (live .fdxb).inputs = [] := by decide

theorem test_witness_ResetSetsEveryElement :
    let p : PortInput := ⟨0x4#4, 9#32, true⟩
    ({ fdxbLast with inputs := [p] } : State).inputs = p :: [] ∧ p.rst = true := by decide

theorem test_witness_EveryStepKeepsTheInvariant : ∃ t, Inv (live .em4100) ∧ step (live .em4100) = .next t :=
  ⟨_, inv_live _, rfl⟩

theorem test_witness_SessionAndEnablesStayTogether :
    ∃ t, SessionInv (live .fdxb) ∧ step (live .fdxb) = .next t := ⟨_, by decide, rfl⟩

theorem test_witness_NoStepChangesTheProtocol : ∃ t, step (live .em4100) = .next t := ⟨_, rfl⟩

theorem test_witness_SampleIsIgnoredWhileTheInterruptIsOff : State.reset.irqEn = false := by decide

theorem test_witness_FdxbHuntPhase :
    let s : State := { live .fdxb with hp := 9#4 }
    s.irqEn = true ∧ s.hp < 10#4 := by decide

theorem test_witness_FdxbBoundaryPhase :
    let s : State := { live .fdxb with hp := 10#4 }
    let u := fed (live .fdxb) (List.replicate 21 false ++ [true])
    (s.irqEn = true ∧ s.hp = 10#4) ∧
    (u.protocol = .fdxb ∧ u.irqEn = true ∧ u.hp = 0#4 ∧
      (stream (List.replicate 21 false ++ [true])).map Prod.fst = List.replicate 21 false ++ [true] ∧
      u.inputs = sampleInputs (stream (List.replicate 21 false ++ [true])) ++ []) := by decide

theorem test_witness_FdxbDataPhase :
    let s : State := { live .fdxb with hp := 11#4, bc := 126#8 }
    let u : State := { live .fdxb with hp := 11#4 }
    let bits := stream (List.replicate 127 true)
    let more := stream (List.replicate 128 false)
    (s.irqEn = true ∧ s.hp = 11#4 ∧ s.bc.toNat < 127) ∧
    (u.protocol = .fdxb ∧ u.irqEn = true ∧ u.hp = 11#4 ∧ u.bc = 0#8) ∧
    ({ u with inputs := sampleInputs bits } : State).inputs = sampleInputs bits ++ [] ∧ bits.length < 128 ∧
    ({ u with inputs := sampleInputs more } : State).inputs = sampleInputs more ++ [] ∧ more.length = 128 := by
  decide +kernel

theorem test_witness_FdxbCompletion :
    (fdxbLast.irqEn = true ∧ fdxbLast.hp = 11#4 ∧ fdxbLast.bc = 127#8) ∧
    (let s : State := { live .fdxb with hp := 11#4, bc := 126#8 }
     s.irqEn = true ∧ s.hp = 11#4 ∧ s.bc.toNat < 127) := by decide

theorem test_witness_FdxbFrameCompleteExactlyOnTheLastBit :
    ∃ t, fdxbLast.protocol = .fdxb ∧ Inv fdxbLast ∧ exec (.sampleFdxb true) fdxbLast = .next t :=
  ⟨_, by decide, inv_fdxbLast, rfl⟩

theorem test_witness_FdxbNoHeaderNoAcquisition :
    let bits := List.replicate 11 false ++ [true] ++ List.replicate 12 false ++ [true] ++ List.replicate 10 false
    let s := fed (live .fdxb) bits
    s.protocol = .fdxb ∧ s.irqEn = true ∧ s.hp = 0#4 ∧ s.bc = 0#8 ∧
    holdsHeaderFdxb ((stream bits).map Prod.fst) = false ∧ s.inputs = sampleInputs (stream bits) ++ [] ∧
    bits.length ≤ (stream bits).length := by decide

theorem test_witness_FdxbFrameReachesTheMailbox :
    let bits := headerFdxb ++ frameBits frameA
    let s := fed (live .fdxb) bits
    s.protocol = .fdxb ∧ s.irqEn = true ∧ s.hp = 0#4 ∧ s.bc = 0#8 ∧
    (stream bits).map Prod.fst = headerFdxb ++ frameBits frameA ∧ s.inputs = sampleInputs (stream bits) ++ [] :=
  ⟨by decide, by decide, by decide, by decide, stream_fst _, (List.append_nil _).symm⟩

theorem test_witness_EmHuntPhase :
    let s : State := { live .em4100 with hp := 8#4 }
    let u := fed (live .em4100) (headerEm ++ [true])
    (s.irqEn = true ∧ s.hp < 9#4) ∧
    (u.protocol = .em4100 ∧ u.irqEn = true ∧ DecoderCleared u ∧
      (stream (headerEm ++ [true])).map Prod.fst = headerEm ++ [true] ∧
      u.inputs = sampleInputs (stream (headerEm ++ [true])) ++ []) := by decide

theorem test_witness_EmDataBit :
    let s : State := { live .em4100 with hp := 9#4, ni := 9#4, np := 3#3, bc := 48#8 }
    s.irqEn = true ∧ s.hp = 9#4 ∧ s.ni < 10#4 ∧ s.np < 4#3 ∧ s.bc.toNat < 54 := by decide

theorem test_witness_EmParityBitThatAgrees :
    let s : State := { live .em4100 with hp := 9#4, ni := 9#4, np := 4#3, bc := 49#8, grp := 0x7#4 }
    s.irqEn = true ∧ s.hp = 9#4 ∧ s.ni < 10#4 ∧ s.np = 4#3 ∧ s.bc.toNat < 54 ∧ true = xor4 s.grp := by decide

theorem test_witness_EmParityBitThatDisagrees :
    let s : State := { live .em4100 with hp := 9#4, ni := 9#4, np := 4#3, bc := 49#8, grp := 0x3#4 }
    s.irqEn = true ∧ s.hp = 9#4 ∧ s.ni < 10#4 ∧ s.np = 4#3 ∧ true ≠ xor4 s.grp := by decide

theorem test_witness_EmTrailingBits :
    let s : State := { live .em4100 with hp := 9#4, ni := 10#4, bc := 53#8 }
    let u : State := { live .em4100 with hp := 9#4, ni := 10#4, bc := 50#8 }
    let bits := stream [true, true, true, true, true]
    (s.irqEn = true ∧ s.hp = 9#4 ∧ s.ni = 10#4 ∧ s.bc.toNat < 54) ∧
    (u.protocol = .em4100 ∧ u.irqEn = true ∧ u.hp = 9#4 ∧ u.ni = 10#4 ∧ u.bc = 50#8 ∧ bits.length = 5 ∧
      ({ u with inputs := sampleInputs bits } : State).inputs = sampleInputs bits ++ []) := by decide

theorem test_witness_EmCompletion :
    emLast.irqEn = true ∧ emLast.hp = 9#4 ∧ emLast.ni = 10#4 ∧ emLast.bc = 54#8 := by decide

theorem test_witness_EmFrameCompleteExactlyOnTheLastBit :
    ∃ t, emLast.protocol = .em4100 ∧ Inv emLast ∧ exec (.sampleEm4100 true) emLast = .next t :=
  ⟨_, by decide, inv_emLast, rfl⟩

theorem test_witness_EmNibbleParity :
    (emData.protocol = .em4100 ∧ emData.irqEn = true ∧ Inv emData ∧ emData.hp = 9#4 ∧ emData.ni < 10#4 ∧
      emData.np = 0#3) ∧
    (fed emData (nib5 0x6#4)).inputs = sampleInputs (stream (nib5 0x6#4)) ++ [] ∧
    (stream (nib5 0x6#4)).map Prod.fst = nib5 0x6#4 ∧
    (stream ((nib5 0x6#4).dropLast ++ [!xor4 0x6#4])).map Prod.fst = (nib5 0x6#4).dropLast ++ [!xor4 0x6#4] :=
  ⟨⟨by decide, by decide, inv_emData, by decide, by decide, by decide⟩, by decide, by decide, by decide⟩

theorem test_witness_EmFrameReachesTheIdentifier :
    let nib : Vector Nibble 10 := #v[0x0#4, 0x6#4, 0x0#4, 0x0#4, 0x1#4, 0x2#4, 0x5#4, 0x9#4, 0xE#4, 0x3#4]
    let tail := [false, true, false, false, false]
    let bits := headerEm ++ groupBits nib ++ tail
    let s := fed (live .em4100) bits
    s.protocol = .em4100 ∧ s.irqEn = true ∧ DecoderCleared s ∧ tail.length = 5 ∧
    (stream bits).map Prod.fst = headerEm ++ groupBits nib ++ tail ∧ s.inputs = sampleInputs (stream bits) ++ [] :=
  ⟨by decide, by decide, by decide, by decide, stream_fst _, (List.append_nil _).symm⟩

theorem test_witness_EmNoHeaderNoAcquisition :
    let bits := List.replicate 8 true ++ [false] ++ List.replicate 8 true
    let s := fed (live .em4100) bits
    s.protocol = .em4100 ∧ s.irqEn = true ∧ s.hp = 0#4 ∧ s.bc = 0#8 ∧
    ¬ headerEm <:+: (stream bits).map Prod.fst ∧ s.inputs = sampleInputs (stream bits) ++ [] ∧
    bits.length ≤ (stream bits).length := by decide

theorem test_witness_FormatConsumesTheMailbox :
    State.reset.frameValid = false ∧ (holding frameA).frameValid = true ∧
    (live .em4100).protocol = .em4100 ∧ Inv (live .em4100) := ⟨by decide, by decide, by decide, inv_live _⟩

theorem test_witness_FormatOnAMismatch :
    (holding frameA7).frameValid = true ∧
    crc16 (frameBytes (holding frameA7).fo) 0x8408#16 0x0000#16 ≠ crcRx (holding frameA7).fo := by decide +kernel

theorem test_witness_FormatOnAMatch :
    (holding frameA).frameValid = true ∧
    crc16 (frameBytes (holding frameA).fo) 0x8408#16 0x0000#16 = crcRx (holding frameA).fo := by decide +kernel

theorem test_witness_RecordMovesOnlyWithRecordOk :
    (∃ t, exec .format (holding frameA) = .next t ∧ t.result = some .recordOk) ∧
    (∃ t, step { holding frameA with inputs := [⟨0x8#4, 0#32, false⟩] } = .next t ∧
      t.record ≠ (holding frameA).record) :=
  ⟨⟨_, rfl, by decide +kernel⟩, ⟨_, rfl, by decide +kernel⟩⟩

theorem test_witness_FormatIgnoresTheUnreadCells :
    (holding frameA).frameValid = true ∧
    ∀ i < 128, cellIsRead i = true → frameA.getLsbD i = frameA6.getLsbD i := by decide +kernel

theorem test_witness_ExtraBytesAreNotChecked :
    ∃ t, (holding 0#128).frameValid = true ∧
      (∀ i < 128, cellIsExtra i = false → frameA.getLsbD i = frameA11.getLsbD i) ∧
      exec .format { holding 0#128 with fo := frameA } = .next t ∧ t.result = some .recordOk :=
  ⟨_, by decide, by decide +kernel, rfl, by decide +kernel⟩

theorem test_witness_FormatRejectsACorruptedDataByte :
    (holding 0#128).frameValid = true ∧ 0 < 8 ∧
    crc16 (frameBytes frameA) 0x8408#16 0x0000#16 = crcRx frameA ∧
    DifferInDataByte 0 frameA frameA7 := by
  decide +kernel

theorem test_witness_FormatTwiceFindsNoFrame :
    (∃ t u, exec .format (holding frameA) = .next t ∧ RunsWithoutCompletion 0 t u) ∧
    (∃ t u, exec .format (live .fdxb) = .next t ∧ RunsWithoutCompletion 1 t u) :=
  ⟨⟨_, _, rfl, rfl⟩, ⟨_, _, rfl, _, rfl, by decide, rfl⟩⟩

theorem test_witness_FormatOfTheUniformFrames :
    ((holding 0#128).frameValid = true ∧ (holding 0#128).fo = 0#128) ∧
    ((holding (BitVec.allOnes 128)).frameValid = true ∧
      (holding (BitVec.allOnes 128)).fo = BitVec.allOnes 128) := by decide

theorem test_witness_CrcIsLinear : [0x01#8, 0x02#8].length = [0x80#8, 0xFF#8].length := by decide

theorem test_witness_CrcSeesEveryByte : (0x14#8 : Byte) ≠ 0x15#8 := by decide

theorem test_witness_ActivateOpensAnIdleSession :
    Inv (State.resetOf .fdxb) ∧ (State.resetOf .fdxb).session = .idle ∧ (live .fdxb).session = .active :=
  ⟨inv_reset _, by decide, by decide⟩

theorem test_witness_ActivateTwiceIsOnce : ∃ t, exec .activate State.reset = .next t := ⟨_, rfl⟩

theorem test_witness_DurationSurvivesTheWrap :
    let s : State := { live .fdxb with startTime := 0xFFFFFFF0#32, endTime := 0x00000010#32 }
    32 < 2 ^ 32 ∧ s.endTime.toNat = (s.startTime.toNat + 32) % 2 ^ 32 := by decide

theorem test_witness_ReportCarriesTheLastIdentity :
    (let s : State := { live .fdxb with tagValid := true }
     s.tagValid = true ∧ s.protocol = .fdxb) ∧
    (let s : State := { live .em4100 with tagValid := true }
     s.tagValid = true ∧ s.protocol = .em4100) ∧
    State.reset.tagValid = false ∧ (∃ t, exec .nop State.reset = .next t ∧ Instr.nop ≠ .deactivate) :=
  ⟨by decide, by decide, by decide, ⟨_, rfl, by decide⟩⟩

theorem test_witness_ReservedWordsChangeNothing :
    (Instr.reserved1).isReserved = true ∧ (Instr.reservedCF 0b11#2).isReserved = true := by decide

theorem test_witness_OnlyTheNamedOperationsWrite :
    ∃ t, exec .nop (holding frameA) = .next t ∧
      (∀ d, Instr.nop ≠ .sampleFdxb d ∧ Instr.nop ≠ .sampleEm4100 d) ∧ Instr.nop ≠ .deactivate ∧
      Instr.nop ≠ .format ∧ Instr.nop ≠ .activate := ⟨_, rfl, by decide, by decide, by decide, by decide⟩

theorem test_witness_EndTimeIsLatchedByCompletionAlone :
    (∃ t, exec (.sampleFdxb true) fdxbLast = .next t ∧ t.result = some .frameComplete) ∧
    (∃ t, exec .format fdxbLast = .next t ∧ t.result ≠ some .frameComplete) :=
  ⟨⟨_, rfl, by decide⟩, ⟨_, rfl, by decide⟩⟩

theorem test_witness_MailboxChangesOnlyAsAWhole :
    let s : State := { holding frameA with inputs := [⟨0x8#4, 0#32, false⟩] }
    let u : State := { fdxbLast with inputs := [⟨0x3#4, 0#32, false⟩] }
    (∃ t, step s = .next t ∧ s.fetch.port.rst = false ∧ ¬ SameMailbox s t) ∧
    (∃ t, step u = .next t ∧ u.fetch.port.rst = false ∧ ¬ SameMailbox u t) :=
  ⟨⟨_, rfl, by decide, by decide +kernel⟩, ⟨_, rfl, by decide, by decide +kernel⟩⟩

theorem test_witness_TagValidIsClearedByResetAlone :
    let s : State := { live .fdxb with tagValid := true }
    let u : State := { emLast with inputs := [⟨0x3#4, 0#32, false⟩] }
    let v : State := { holding frameA with inputs := [⟨0x8#4, 0#32, false⟩] }
    (∃ t, step s = .next t ∧ s.fetch.port.rst = false ∧ s.tagValid = true) ∧
    (∃ t, step u = .next t ∧ u.fetch.port.rst = false ∧ u.tagValid = false ∧ t.tagValid = true) ∧
    (∃ t, step v = .next t ∧ v.fetch.port.rst = false ∧ v.tagValid = false ∧ t.tagValid = true) :=
  ⟨⟨_, rfl, by decide, by decide⟩, ⟨_, rfl, by decide, by decide, by decide⟩,
    ⟨_, rfl, by decide, by decide, by decide +kernel⟩⟩

theorem test_witness_SessionMovesByTheControllerAlone :
    let s : State := { State.resetOf .fdxb with inputs := [⟨0x4#4, 0#32, false⟩] }
    let u : State := { live .fdxb with inputs := [⟨0x6#4, 0#32, false⟩] }
    (∃ t, step s = .next t ∧ s.fetch.port.rst = false ∧ t.session ≠ s.session) ∧
    (∃ t, step u = .next t ∧ u.fetch.port.rst = false ∧ t.session ≠ u.session) :=
  ⟨⟨_, rfl, by decide, by decide⟩, ⟨_, rfl, by decide, by decide⟩⟩

theorem test_witness_FailedChecksKeepTheLastIdentity :
    (∃ t, exec .format (holding frameA7) = .next t ∧ t.result = some .checksumFailure) ∧
    (∃ t, exec (.sampleEm4100 true) { emData with np := 4#3, bc := 4#8 } = .next t ∧
      t.result = some .checksumRetry) :=
  ⟨⟨_, rfl, by decide +kernel⟩, ⟨_, rfl, by decide⟩⟩

theorem test_witness_CoincidingEdgeIsServedFirst :
    let p : Pins := ⟨false, true, true, some .format, 7#32, 8#32⟩
    (live .fdxb).inputs = [] ∧ (live .fdxb).irqEn = true ∧
    edgeTaken .rising p.clkBefore p.clkAfter = true ∧ p.request = some .format ∧
    Instr.format.hostMay = true ∧
    (let q : Pins := ⟨false, true, true, some (.sampleFdxb true), 7#32, 8#32⟩
     q.request = some (.sampleFdxb true) ∧ (Instr.sampleFdxb true).hostMay = false) ∧
    (let u : State := { live .fdxb with inputs := [⟨0x8#4, 8#32, false⟩] }
     u.irqEn = true ∧ u.stepForEdge = true ∧ edgeTaken .rising p.clkBefore p.clkAfter = true) ∧
    (let v : State := { live .fdxb with inputs := [⟨0x3#4, 8#32, false⟩] }
     v.stepForEdge = false) ∧
    (let w : State := { live .fdxb with inputs := [⟨0x0#4, 8#32, true⟩] }
     w.stepForEdge = false) := by decide

end Sys2Proof.Tests
end

section
/-! PROOF. `PROTOCOL` is a constant of the instance (00_scope.md R7): every update of the state, every operation and
every step keeps it. -/

namespace Sys2Proof.Machine

/-! ### The updates of the state without a field lemma of their own -/

section
variable (d : Bool) (s : State)

@[simp] theorem State.openSession_protocol : s.openSession.protocol = s.protocol := rfl
@[simp] theorem State.storeFdxbBit_protocol : (s.storeFdxbBit d).protocol = s.protocol := rfl
@[simp] theorem State.completeFdxb_protocol : (s.completeFdxb d).protocol = s.protocol := rfl
@[simp] theorem State.storeEmBit_protocol : (s.storeEmBit d).protocol = s.protocol := rfl
@[simp] theorem State.storeNibble_protocol : s.storeNibble.protocol = s.protocol := rfl
@[simp] theorem State.completeEm_protocol : s.completeEm.protocol = s.protocol := rfl
@[simp] theorem State.resetStep_protocol : s.resetStep.protocol = s.protocol := rfl

@[simp] theorem State.fetch_protocol : s.fetch.protocol = s.protocol := by
  obtain ⟨p, rest, h⟩ := s.fetch_cases
  rw [h]

/-! ### The operations with cases -/

@[simp] theorem State.sampleFdxb_protocol : (s.sampleFdxb d).protocol = s.protocol := by
  obtain ⟨_, h⟩ | ⟨_, _, _, h⟩ | ⟨_, _, _, h⟩ | ⟨_, _, _, h⟩ | ⟨_, _, _, h⟩ | ⟨_, _, _, h⟩ | ⟨_, _, _, h⟩ :=
    s.sampleFdxb_cases d
  all_goals simp [h]

@[simp] theorem State.countEmBit_protocol : s.countEmBit.protocol = s.protocol := by
  obtain ⟨_, h⟩ | ⟨_, h⟩ := s.countEmBit_cases
  all_goals simp [h]

@[simp] theorem State.sampleEm4100_protocol : (s.sampleEm4100 d).protocol = s.protocol := by
  obtain ⟨_, h⟩ | ⟨_, _, _, h⟩ | ⟨_, _, _, h⟩ | ⟨_, _, _, _, h⟩ | ⟨_, _, _, _, _, h⟩ | ⟨_, _, _, _, _, h⟩ |
    ⟨_, _, _, h⟩ := s.sampleEm4100_cases d
  all_goals simp [h]

@[simp] theorem State.format_protocol : s.format.protocol = s.protocol := by
  obtain ⟨_, h⟩ | ⟨_, _, h⟩ | ⟨_, _, h⟩ := s.format_cases
  all_goals simp [h]

@[simp] theorem State.activate_protocol : s.activate.protocol = s.protocol := by
  obtain ⟨_, h⟩ | ⟨_, h⟩ := s.activate_cases
  all_goals simp [h]

@[simp] theorem State.deactivate_protocol : s.deactivate.protocol = s.protocol := by
  simp [State.deactivate_eq]

end

/-! ### Every operation and every step -/

/-- No operation changes `PROTOCOL`. A `SAMPLE` row is covered in either build (log entry 9). -/
theorem exec_keeps_protocol {i : Instr} {s t : State} (h : exec i s = .next t) : t.protocol = s.protocol := by
  cases i <;> cases h
  case sampleFdxb d => exact s.sampleFdxb_protocol d
  case sampleEm4100 d => exact s.sampleEm4100_protocol d
  case activate => exact s.activate_protocol
  case deactivate => exact s.deactivate_protocol
  case format => exact s.format_protocol
  -- `NOP` and the reserved words only answer
  all_goals exact s.answer_protocol _

/-- Settles O12: the ports' inputs move no element, and then either the reset or the operation keeps `PROTOCOL`. -/
theorem noStepChangesTheProtocol : Obligations.NoStepChangesTheProtocol := by
  intro s t h
  cases hr : s.fetch.port.rst with
  | true =>
    rw [step_of_rst hr] at h
    cases h
    exact s.fetch.resetStep_protocol.trans s.fetch_protocol
  | false =>
    rw [step_of_no_rst hr] at h
    exact (exec_keeps_protocol h).trans s.fetch_protocol

end Sys2Proof.Machine
end

section
/-! PROOF. The step as a whole (10_state.md section 6, R47): what a step can be, and the fields each operation may
write (10_state.md R50, 60_exceptions.md R273). -/

namespace Sys2Proof.Machine

/-! ### What a step can be -/

/-- Everything a step can be: a reset, or the operation on the ports. -/
theorem step_cases {s t : State} (h : step s = .next t) :
    (s.fetch.port.rst = true ∧ t = s.fetch.resetStep) ∨
    (s.fetch.port.rst = false ∧ exec s.fetch.current s.fetch = .next t) := by
  cases hr : s.fetch.port.rst with
  | true =>
    rw [step_of_rst hr] at h
    cases h
    exact .inl ⟨rfl, rfl⟩
  | false => exact .inr ⟨rfl, step_of_no_rst hr ▸ h⟩

/-- A property that a fetch keeps, a reset establishes and every operation of the build keeps, every step keeps. -/
theorem step_preserves {P : State → Prop} (hfetch : ∀ s : State, P s → P s.fetch) (hreset : ∀ s : State, P s.resetStep)
    (hexec : ∀ (i : Instr) (s t : State), i.wf s.protocol = true → P s → exec i s = .next t → P t)
    {s t : State} (hs : P s) (h : step s = .next t) : P t := by
  obtain ⟨-, rfl⟩ | ⟨-, h⟩ := step_cases h
  · exact hreset s.fetch
  · exact hexec _ _ _ s.fetch.current_wf (hfetch s hs) h

/-! ### The operation on the ports -/

/-- Decoding the word of an operation of the build gives it back (30_encoding.md R110, R111). -/
theorem decode_encode {p : Protocol} {i : Instr} (h : i.wf p = true) : decode p (encode i) = i := by
  cases i with
  | sampleFdxb d =>
    obtain rfl : p = .fdxb := by simpa [Instr.wf] using h
    exact decode_sample .fdxb d
  | sampleEm4100 d =>
    obtain rfl : p = .em4100 := by simpa [Instr.wf] using h
    exact decode_sample .em4100 d
  | reservedAB x => cases x <;> rfl
  | reservedCF x => revert x; cases p <;> decide
  | _ => rfl

/-- Settles O4: the ports carry what is presented, and decoding undoes the encoding. -/
theorem stepRunsTheDecodedInstruction : Obligations.StepRunsTheDecodedInstruction := by
  intro s p rest i hin hrst hwf hev
  have hf : s.fetch = { s with port := p, inputs := rest } := State.fetch_cons hin
  have hc : s.fetch.current = i := by
    rw [hf, State.current, hev]
    exact decode_encode hwf
  rw [step_of_no_rst (by rw [hf]; exact hrst), hc, hf]

/-! ### The fields an operation may write -/

/-- The fields `SAMPLE` of an FDXB build may write. -/
theorem State.sampleFdxb_writes (d : Bool) (s : State) :
    ∃ hp bc raw fo frameValid endTime r, s.sampleFdxb d =
      { s with hp := hp, bc := bc, raw := raw, fo := fo, frameValid := frameValid, endTime := endTime }.answer r := by
  obtain ⟨_, h⟩ | ⟨_, _, _, h⟩ | ⟨_, _, _, h⟩ | ⟨_, _, _, h⟩ | ⟨_, _, _, h⟩ | ⟨_, _, _, h⟩ | ⟨_, _, _, h⟩ :=
    s.sampleFdxb_cases d
  all_goals exact ⟨_, _, _, _, _, _, _, h⟩

/-- The fields the count of an EM4100 payload bit may write. -/
theorem State.countEmBit_writes (s : State) :
    ∃ hp bc np ni grp nib emId tagValid endTime r, s.countEmBit =
      { s with hp := hp, bc := bc, np := np, ni := ni, grp := grp, nib := nib, emId := emId, tagValid := tagValid,
               endTime := endTime }.answer r := by
  obtain ⟨_, h⟩ | ⟨_, h⟩ := s.countEmBit_cases
  all_goals exact ⟨_, _, _, _, _, _, _, _, _, _, h⟩

/-- The fields `SAMPLE` of an EM4100 build may write. -/
theorem State.sampleEm4100_writes (d : Bool) (s : State) :
    ∃ hp bc np ni grp nib emId tagValid endTime r, s.sampleEm4100 d =
      { s with hp := hp, bc := bc, np := np, ni := ni, grp := grp, nib := nib, emId := emId, tagValid := tagValid,
               endTime := endTime }.answer r := by
  obtain ⟨_, h⟩ | ⟨_, _, _, h⟩ | ⟨_, _, _, h⟩ | ⟨_, _, _, _, h⟩ | ⟨_, _, _, _, _, h⟩ | ⟨_, _, _, _, _, h⟩ |
    ⟨_, _, _, h⟩ := s.sampleEm4100_cases d
  · exact ⟨_, _, _, _, _, _, _, _, _, _, h⟩
  · exact ⟨_, _, _, _, _, _, _, _, _, _, h⟩
  · exact ⟨_, _, _, _, _, _, _, _, _, _, h⟩
  · obtain ⟨_, _, _, _, _, _, _, _, _, _, e⟩ := (s.storeEmBit d).countEmBit_writes
    exact ⟨_, _, _, _, _, _, _, _, _, _, h.trans e⟩
  · obtain ⟨_, _, _, _, _, _, _, _, _, _, e⟩ := s.storeNibble.countEmBit_writes
    exact ⟨_, _, _, _, _, _, _, _, _, _, h.trans e⟩
  · exact ⟨_, _, _, _, _, _, _, _, _, _, h⟩
  · obtain ⟨_, _, _, _, _, _, _, _, _, _, e⟩ := s.countEmBit_writes
    exact ⟨_, _, _, _, _, _, _, _, _, _, h.trans e⟩

/-- The fields `FORMAT` may write. -/
theorem State.format_writes (s : State) :
    ∃ fo frameValid record tagValid r, s.format =
      { s with fo := fo, frameValid := frameValid, record := record, tagValid := tagValid }.answer r := by
  obtain ⟨_, h⟩ | ⟨_, _, h⟩ | ⟨_, _, h⟩ := s.format_cases
  all_goals exact ⟨_, _, _, _, _, h⟩

/-- The fields `ACTIVATE` may write. -/
theorem State.activate_writes (s : State) :
    ∃ session fieldEn irqEn startTime r, s.activate =
      { s with session := session, fieldEn := fieldEn, irqEn := irqEn, startTime := startTime }.answer r := by
  obtain ⟨_, h⟩ | ⟨_, h⟩ := s.activate_cases
  all_goals exact ⟨_, _, _, _, _, h⟩

/-- Settles O54: each operation writes the fields its `_writes` lemma names, and the clauses that name one of them
except that operation. -/
theorem onlyTheNamedOperationsWrite : Obligations.OnlyTheNamedOperationsWrite := by
  intro i s t h
  cases i <;> cases h
  case sampleFdxb d =>
    obtain ⟨_, _, _, _, _, _, _, e⟩ := s.sampleFdxb_writes d
    simp [e, SameIdentity, SameSession]
  case sampleEm4100 d =>
    obtain ⟨_, _, _, _, _, _, _, _, _, _, e⟩ := s.sampleEm4100_writes d
    simp [e, SameMailbox, SameSession]
  case format =>
    obtain ⟨_, _, _, _, _, e⟩ := s.format_writes
    simp [e, SameDecoder, SameSession]
  case activate =>
    obtain ⟨_, _, _, _, _, e⟩ := s.activate_writes
    simp [e, SameDecoder, SameMailbox, SameIdentity]
  case deactivate => simp [s.deactivate_eq, SameMailbox, SameIdentity]
  -- `NOP` and the reserved words only answer
  all_goals simp [SameDecoder, SameMailbox, SameIdentity, SameSession]

/-- Outside `ACTIVATE` and `DEACTIVATE` the session elements stand. -/
theorem exec_sameSession {i : Instr} {s t : State} (h : exec i s = .next t) (ha : i ≠ .activate)
    (hd : i ≠ .deactivate) : SameSession s t := by
  obtain ⟨-, -, -, hsession, -⟩ := onlyTheNamedOperationsWrite i s t h
  exact hsession ha hd

/-- Outside `SAMPLE` of an EM4100 build and `FORMAT` the identity stands. -/
theorem exec_sameIdentity {i : Instr} {s t : State} (h : exec i s = .next t) (he : ∀ d, i ≠ .sampleEm4100 d)
    (hf : i ≠ .format) : SameIdentity s t := by
  obtain ⟨-, -, hidentity, -⟩ := onlyTheNamedOperationsWrite i s t h
  exact hidentity he hf

end Sys2Proof.Machine
end

section
/-! PROOF. `session`, `field_en` and `irq_en` move together (10_state.md R42), and `tag_valid` is cleared by reset alone
(R35). -/

namespace Sys2Proof.Machine

/-! ### The session and its enables -/

/-- What leaves the session elements alone leaves them together. -/
theorem sessionInv_of_sameSession {s t : State} (hs : SessionInv s) (h : SameSession s t) : SessionInv t := by
  obtain ⟨hsession, hfield, hirq, -, -⟩ := h
  rw [SessionInv, hsession, hfield, hirq]
  exact hs

theorem State.fetch_sessionInv {s : State} (hs : SessionInv s) : SessionInv s.fetch := by
  obtain ⟨p, rest, h⟩ := s.fetch_cases
  rw [h]
  exact hs

theorem State.resetStep_sessionInv (s : State) : SessionInv s.resetStep := by
  simp [SessionInv, State.resetStep, State.resetOf]

theorem State.openSession_sessionInv (s : State) : SessionInv s.openSession := by
  simp [SessionInv, State.openSession]

theorem State.activate_sessionInv {s : State} (hs : SessionInv s) : SessionInv s.activate := by
  obtain ⟨_, h⟩ | ⟨_, h⟩ := s.activate_cases
  · rw [h]
    exact hs
  · rw [h]
    exact s.openSession_sessionInv

theorem State.deactivate_sessionInv (s : State) : SessionInv s.deactivate := by
  simp [SessionInv, State.deactivate_eq]

/-- Every operation keeps the three together: the controller writes them together, the others leave them. -/
theorem exec_keeps_sessionInv {i : Instr} {s t : State} (hs : SessionInv s) (h : exec i s = .next t) :
    SessionInv t := by
  by_cases ha : i = .activate
  · subst ha
    cases h
    exact State.activate_sessionInv hs
  by_cases hd : i = .deactivate
  · subst hd
    cases h
    exact s.deactivate_sessionInv
  exact sessionInv_of_sameSession hs (exec_sameSession h ha hd)

/-- Settles O11: a fetch, a reset and every operation keep the three together. -/
theorem sessionAndEnablesStayTogether : Obligations.SessionAndEnablesStayTogether := by
  intro s t hs h
  exact step_preserves (P := SessionInv) (fun _ => State.fetch_sessionInv) State.resetStep_sessionInv
    (fun _ _ _ _ => exec_keeps_sessionInv) hs h

/-! ### The identity -/

/-- The count of an EM4100 payload bit leaves the identity alone or completes a frame. -/
theorem State.countEmBit_identity (s : State) :
    SameIdentity s s.countEmBit ∨ (s.countEmBit.tagValid = true ∧ s.countEmBit.result = some .frameComplete) := by
  obtain ⟨_, h⟩ | ⟨_, h⟩ := s.countEmBit_cases
  · exact .inr (by rw [h]; exact ⟨rfl, rfl⟩)
  · exact .inl (by rw [h]; exact ⟨rfl, rfl, rfl⟩)

/-- `SAMPLE` of an EM4100 build leaves the identity alone or completes a frame (41_acquisition_em4100.md R158). -/
theorem State.sampleEm4100_identity (d : Bool) (s : State) :
    SameIdentity s (s.sampleEm4100 d) ∨
    ((s.sampleEm4100 d).tagValid = true ∧ (s.sampleEm4100 d).result = some .frameComplete) := by
  obtain ⟨_, h⟩ | ⟨_, _, _, h⟩ | ⟨_, _, _, h⟩ | ⟨_, _, _, _, h⟩ | ⟨_, _, _, _, _, h⟩ | ⟨_, _, _, _, _, h⟩ |
    ⟨_, _, _, h⟩ := s.sampleEm4100_cases d
  all_goals rw [h]
  · exact .inl ⟨rfl, rfl, rfl⟩
  · exact .inl ⟨rfl, rfl, rfl⟩
  · exact .inl ⟨rfl, rfl, rfl⟩
  · exact (s.storeEmBit d).countEmBit_identity
  · exact s.storeNibble.countEmBit_identity
  · exact .inl ⟨rfl, rfl, rfl⟩
  · exact s.countEmBit_identity

/-- `FORMAT` leaves the identity alone or decodes a record (43_formatter.md R197). -/
theorem State.format_identity (s : State) :
    SameIdentity s s.format ∨ (s.format.tagValid = true ∧ s.format.result = some .recordOk) := by
  obtain ⟨_, h⟩ | ⟨_, _, h⟩ | ⟨_, _, h⟩ := s.format_cases
  all_goals rw [h]
  · exact .inl ⟨rfl, rfl, rfl⟩
  · exact .inr ⟨rfl, rfl⟩
  · exact .inl ⟨rfl, rfl, rfl⟩

/-- An operation of the build leaves the identity alone, or it is a success that sets `tag_valid` (10_state.md R35). -/
theorem exec_identity {i : Instr} {s t : State} (hwf : i.wf s.protocol = true) (h : exec i s = .next t) :
    SameIdentity s t ∨ (t.tagValid = true ∧
      (t.result = some .recordOk ∨ (s.protocol = .em4100 ∧ t.result = some .frameComplete))) := by
  cases i
  case sampleEm4100 d =>
    cases h
    exact (s.sampleEm4100_identity d).imp_right fun ⟨hv, hr⟩ => ⟨hv, .inr ⟨by simpa [Instr.wf] using hwf, hr⟩⟩
  case format =>
    cases h
    exact s.format_identity.imp_right fun ⟨hv, hr⟩ => ⟨hv, .inl hr⟩
  all_goals exact .inl (exec_sameIdentity h (by simp) (by simp))

@[simp] theorem State.fetch_tagValid (s : State) : s.fetch.tagValid = s.tagValid := by
  obtain ⟨p, rest, h⟩ := s.fetch_cases
  rw [h]

/-- Settles O57: without `rst` the step is an operation of the build, which leaves the identity or sets `tag_valid`. -/
theorem tagValidIsClearedByResetAlone : Obligations.TagValidIsClearedByResetAlone := by
  intro s t h hr
  rw [step_of_no_rst hr] at h
  obtain ⟨-, -, hsame⟩ | ⟨hset, hresult⟩ := exec_identity s.fetch.current_wf h
  · rw [s.fetch_tagValid] at hsame
    rw [hsame]
    exact ⟨id, fun hf ht => absurd (hf.symm.trans ht) (by decide)⟩
  · rw [s.fetch_protocol] at hresult
    exact ⟨fun _ => hset, fun _ _ => hresult⟩

end Sys2Proof.Machine
end

section
/-! PROOF. The invariant of the block: reset establishes it, and every step keeps it (10_state.md R27, R31, R42;
44_session.md R229). -/

namespace Sys2Proof.Machine

/-! ### What the invariant does not read -/

/-- The invariant reads neither the ports of a step nor its answer. -/
theorem Inv.withPorts {s : State} (h : Inv s) (port : PortInput) (inputs : List PortInput) (result : Option Status)
    (report : Option Report) :
    Inv { s with port := port, inputs := inputs, result := result, report := report } :=
  ⟨h.fdxb, h.em4100, h.idle, h.mailbox, h.session, h.identity, h.build⟩

theorem Inv.answer {s : State} (h : Inv s) (r : Status) : Inv (s.answer r) :=
  h.withPorts s.port s.inputs (some r) none

theorem Inv.fetch {s : State} (h : Inv s) : Inv s.fetch := by
  obtain ⟨p, rest, e⟩ := s.fetch_cases
  rw [e]
  exact h.withPorts p rest s.result s.report

/-! ### A decoder that holds nothing -/

theorem getElem_zeroNibbles_fin (j : Fin 10) : zeroNibbles[j] = 0#4 :=
  getElem_zeroNibbles j.val j.isLt

/-- In the hunt phase of an FDXB build it is enough that nothing is stored. -/
theorem decoderInvFdxb_of_hunt {s : State} (hh : s.hp.toNat < 11) (hb : s.bc = 0#8)
    (hraw : ∀ i : Fin 128, s.raw.getLsbD i.val = false) : DecoderInvFdxb s :=
  ⟨by omega, fun _ => ⟨hb, hraw⟩, fun h => by omega⟩

/-- In the hunt phase of an EM4100 build it is enough that nothing is stored. -/
theorem decoderInvEm_of_hunt {s : State} (hh : s.hp.toNat < 9) (hb : s.bc = 0#8) (hnp : s.np = 0#3) (hni : s.ni = 0#4)
    (hgrp : s.grp = 0#4) (hnib : ∀ j : Fin 10, s.nib[j] = 0#4) : DecoderInvEm s :=
  ⟨by omega, fun _ => ⟨hb, hnp, hni, hgrp, hnib⟩, fun h => by omega⟩

theorem DecoderCleared.decoderInvFdxb {s : State} (h : DecoderCleared s) : DecoderInvFdxb s := by
  obtain ⟨hh, hb, -, -, -, hraw, -⟩ := h
  exact decoderInvFdxb_of_hunt (by simp [hh]) hb (by simp [hraw])

theorem DecoderCleared.decoderInvEm {s : State} (h : DecoderCleared s) : DecoderInvEm s := by
  obtain ⟨hh, hb, hnp, hni, hgrp, -, hnib⟩ := h
  exact decoderInvEm_of_hunt (by simp [hh]) hb hnp hni hgrp hnib

theorem DecoderCleared.idleInv {s : State} (h : DecoderCleared s) : IdleInv s := by
  obtain ⟨hh, hb, hnp, hni, hgrp, hraw, hnib⟩ := h
  exact fun _ => ⟨hh, hb, hnp, hni, hgrp, by simp [hraw], hnib⟩

/-! ### Reset -/

theorem decoderCleared_resetOf (p : Protocol) : DecoderCleared (State.resetOf p) :=
  ⟨rfl, rfl, rfl, rfl, rfl, rfl, getElem_zeroNibbles_fin⟩

theorem inv_resetOf (p : Protocol) : Inv (State.resetOf p) where
  fdxb _ := (decoderCleared_resetOf p).decoderInvFdxb
  em4100 _ := (decoderCleared_resetOf p).decoderInvEm
  idle := (decoderCleared_resetOf p).idleInv
  mailbox _ := rfl
  session := by simp [SessionInv, State.resetOf]
  identity _ := ⟨rfl, rfl⟩
  build := ⟨fun _ => ⟨rfl, rfl, rfl, rfl, rfl⟩, fun _ => ⟨rfl, rfl, rfl, rfl⟩⟩

theorem inv_resetStep (s : State) : Inv s.resetStep :=
  (inv_resetOf s.protocol).withPorts s.port s.inputs none none

/-- Settles O9: every element is 0 and the session Idle. -/
theorem resetMeetsTheInvariant : Obligations.ResetMeetsTheInvariant :=
  ⟨inv_resetOf, inv_resetOf Config.resetProtocol⟩

/-! ### The controller and the formatter -/

theorem Inv.activate {s : State} (h : Inv s) : Inv s.activate := by
  obtain ⟨_, e⟩ | ⟨_, e⟩ := s.activate_cases
  · rw [e]
    exact h.answer _
  · rw [e]
    exact ⟨h.fdxb, h.em4100, by simp [IdleInv, State.openSession], h.mailbox, s.openSession_sessionInv, h.identity,
      h.build⟩

theorem decoderCleared_deactivate (s : State) : DecoderCleared s.deactivate :=
  ⟨rfl, rfl, rfl, rfl, rfl, rfl, getElem_zeroNibbles_fin⟩

theorem Inv.deactivate {s : State} (h : Inv s) : Inv s.deactivate where
  fdxb _ := (decoderCleared_deactivate s).decoderInvFdxb
  em4100 _ := (decoderCleared_deactivate s).decoderInvEm
  idle := (decoderCleared_deactivate s).idleInv
  mailbox := h.mailbox
  session := s.deactivate_sessionInv
  identity := h.identity
  build := by
    obtain ⟨hfdxb, hem⟩ := h.build
    refine ⟨fun hp => ?_, fun hp => ?_⟩
    · obtain ⟨-, -, -, -, hid⟩ := hfdxb hp
      exact ⟨rfl, rfl, rfl, rfl, hid⟩
    · obtain ⟨-, hmailbox⟩ := hem hp
      exact ⟨rfl, hmailbox⟩

theorem Inv.emptyMailbox {s : State} (h : Inv s) : Inv s.emptyMailbox where
  fdxb := h.fdxb
  em4100 := h.em4100
  idle := h.idle
  mailbox _ := rfl
  session := h.session
  identity := h.identity
  build := by
    obtain ⟨hfdxb, hem⟩ := h.build
    refine ⟨hfdxb, fun hp => ?_⟩
    obtain ⟨hraw, -, -, hrecord⟩ := hem hp
    exact ⟨hraw, rfl, rfl, hrecord⟩

/-- Only an FDXB build has a record to store. -/
theorem Inv.storeRecord {s : State} (h : Inv s) (hp : s.protocol = .fdxb) (r : TagRecord) : Inv (s.storeRecord r) where
  fdxb := h.fdxb
  em4100 := h.em4100
  idle := h.idle
  mailbox := h.mailbox
  session := h.session
  identity := by simp [IdentityInv]
  build := ⟨h.build.1, by simp [hp]⟩

/-- An EM4100 build never has a frame in its mailbox (41_acquisition_em4100.md R159). -/
theorem Inv.fdxb_of_frameValid {s : State} (h : Inv s) (hv : s.frameValid = true) : s.protocol = .fdxb := by
  cases hp : s.protocol with
  | fdxb => rfl
  | em4100 =>
    obtain ⟨-, -, hnone, -⟩ := h.build.2 hp
    simp [hnone] at hv

theorem Inv.format {s : State} (h : Inv s) : Inv s.format := by
  obtain ⟨_, e⟩ | ⟨hv, _, e⟩ | ⟨_, _, e⟩ := s.format_cases
  all_goals rw [e]
  · exact h.answer _
  · exact (h.emptyMailbox.storeRecord (h.fdxb_of_frameValid hv) _).answer _
  · exact h.emptyMailbox.answer _

/-! ### `SAMPLE`, both builds -/

theorem State.sampleFdxb_of_irqOff {s : State} (h : s.irqEn = false) {d : Bool} :
    s.sampleFdxb d = s.answer .ignored := by
  simp [State.sampleFdxb, h]

theorem State.sampleEm4100_of_irqOff {s : State} (h : s.irqEn = false) {d : Bool} :
    s.sampleEm4100 d = s.answer .ignored := by
  simp [State.sampleEm4100, h]

/-- While the interrupt is on the session is Active, so an operation that leaves the session alone meets the Idle clause
whatever it does to the decoder. -/
theorem idleInv_of_irqEn {s t : State} (hs : SessionInv s) (hi : s.irqEn = true) (ht : SameSession s t) :
    IdleInv t := by
  obtain ⟨hactive, hirq⟩ := hs
  obtain ⟨hsession, -⟩ := ht
  intro hidle
  rw [hsession, hactive.mpr (hirq.mpr hi)] at hidle
  cases hidle

/-! ### `SAMPLE` of an FDXB build -/

/-- A payload bit goes to the cell under the cursor, so the cells from the next one on stay 0. -/
theorem State.storeFdxbBit_decoderInv {s : State} (h : DecoderInvFdxb s) (hh : s.hp.toNat = 11) (hb : s.bc.toNat < 127)
    (d : Bool) : DecoderInvFdxb (s.storeFdxbBit d) := by
  obtain ⟨-, -, hdata⟩ := h
  obtain ⟨-, hfree⟩ := hdata hh
  have hcursor : (s.storeFdxbBit d).bc.toNat = s.bc.toNat + 1 := by
    simp only [State.storeFdxbBit]
    bv_omega
  refine ⟨hh.le, fun hlt => absurd hh hlt.ne, fun _ => ⟨by omega, fun i hi => ?_⟩⟩
  rw [hcursor] at hi
  simp only [State.storeFdxbBit]
  rw [getLsbD_setBit _ _ _ i.isLt, if_neg (by omega)]
  exact hfree i (by omega)

theorem State.sampleFdxb_decoderInv {s : State} (h : DecoderInvFdxb s) (d : Bool) :
    DecoderInvFdxb (s.sampleFdxb d) := by
  have ⟨hle, hhunt, _⟩ := h
  obtain ⟨_, e⟩ | ⟨_, hh, _, e⟩ | ⟨_, hh, _, e⟩ | ⟨_, hh, _, e⟩ | ⟨_, hh, _, e⟩ | ⟨_, hh, hb, e⟩ | ⟨_, _, _, e⟩ :=
    s.sampleFdxb_cases d
  all_goals rw [e]
  · exact h
  -- a `0` of the header
  · obtain ⟨hb, hraw⟩ := hhunt (by bv_omega)
    exact decoderInvFdxb_of_hunt (by simp only [State.answer_hp]; bv_omega) hb hraw
  -- a `1` before the header is complete starts over
  · obtain ⟨hb, hraw⟩ := hhunt (by bv_omega)
    exact decoderInvFdxb_of_hunt (by simp) hb hraw
  -- the header is confirmed, and nothing is stored yet
  · obtain ⟨hb, hraw⟩ := hhunt (by simp [hh])
    exact ⟨by simp, by simp, fun _ => ⟨by simp [hb], fun i _ => hraw i⟩⟩
  -- a `0` at the boundary starts over
  · obtain ⟨hb, hraw⟩ := hhunt (by simp [hh])
    exact decoderInvFdxb_of_hunt (by simp) hb hraw
  -- a payload bit, and the bit that completes the frame
  · exact State.storeFdxbBit_decoderInv h (by bv_omega) hb d
  · exact decoderInvFdxb_of_hunt (by simp [State.completeFdxb]) rfl (by simp [State.completeFdxb])

/-- The mailbox is left alone, or a frame is put there. -/
theorem State.sampleFdxb_mailboxInv {s : State} (h : MailboxInv s) (d : Bool) : MailboxInv (s.sampleFdxb d) := by
  obtain ⟨_, e⟩ | ⟨_, _, _, e⟩ | ⟨_, _, _, e⟩ | ⟨_, _, _, e⟩ | ⟨_, _, _, e⟩ | ⟨_, _, _, e⟩ | ⟨_, _, _, e⟩ :=
    s.sampleFdxb_cases d
  case inr.inr.inr.inr.inr.inr => simp [e, MailboxInv, State.completeFdxb]
  all_goals
    rw [e]
    exact h

theorem Inv.sampleFdxb {s : State} (h : Inv s) (hp : s.protocol = .fdxb) (d : Bool) : Inv (s.sampleFdxb d) where
  fdxb _ := State.sampleFdxb_decoderInv (h.fdxb hp) d
  em4100 hem := by simp [hp] at hem
  idle := by
    cases hi : s.irqEn with
    | true => exact idleInv_of_irqEn h.session hi (exec_sameSession (exec_sampleFdxb d s) (by simp) (by simp))
    | false =>
      rw [State.sampleFdxb_of_irqOff hi]
      exact h.idle
  mailbox := State.sampleFdxb_mailboxInv h.mailbox d
  session := exec_keeps_sessionInv h.session (exec_sampleFdxb d s)
  identity := by
    obtain ⟨_, _, _, _, _, _, _, e⟩ := s.sampleFdxb_writes d
    rw [e]
    exact h.identity
  build := by
    obtain ⟨_, _, _, _, _, _, _, e⟩ := s.sampleFdxb_writes d
    rw [e]
    exact ⟨h.build.1, fun hem => by simp [hp] at hem⟩

/-! ### `SAMPLE` of an EM4100 build -/

/-- A data bit goes to the next lower bit of the group, so the bits below it stay 0. -/
theorem State.storeEmBit_decoderInv {s : State} (h : DecoderInvEm s) (hh : s.hp.toNat = 9) (hni : s.ni.toNat < 10)
    (hnp : s.np.toNat < 4) (d : Bool) : DecoderInvEm { s.storeEmBit d with bc := s.bc + 1#8 } := by
  obtain ⟨-, -, hdata⟩ := h
  obtain ⟨hle, hgroup, -, hnib, hgrp⟩ := hdata hh
  obtain ⟨-, hbc⟩ := hgroup hni
  have hnp' : (s.np + 1#3).toNat = s.np.toNat + 1 := by bv_omega
  have hbc' : (s.bc + 1#8).toNat = s.bc.toNat + 1 := by bv_omega
  refine ⟨hh.le, fun hlt => absurd hh hlt.ne, fun _ =>
    ⟨hle, fun _ => ?_, fun hten => absurd hten hni.ne, hnib, fun k hk => ?_⟩⟩
  · simp only [State.storeEmBit]
    omega
  · simp only [State.storeEmBit] at hk ⊢
    rw [getLsbD_setBit _ _ _ k.isLt, if_neg (by omega)]
    exact hgrp k (by omega)

/-- A parity bit that agrees stores the group in the next nibble and starts a group that holds nothing. -/
theorem State.storeNibble_decoderInv {s : State} (h : DecoderInvEm s) (hh : s.hp.toNat = 9) (hni : s.ni.toNat < 10)
    (hnp : 4 ≤ s.np.toNat) : DecoderInvEm { s.storeNibble with bc := s.bc + 1#8 } := by
  obtain ⟨-, -, hdata⟩ := h
  obtain ⟨hle, hgroup, -, hnib, -⟩ := hdata hh
  obtain ⟨hnp4, hbc⟩ := hgroup hni
  have hni' : (s.ni + 1#4).toNat = s.ni.toNat + 1 := by bv_omega
  have hbc' : (s.bc + 1#8).toNat = s.bc.toNat + 1 := by bv_omega
  refine ⟨hh.le, fun hlt => absurd hh hlt.ne, fun _ => ⟨?_, fun _ => ?_, fun hten => ?_, fun j hj => ?_, ?_⟩⟩
  · simp only [State.storeNibble]
    omega
  · simp only [State.storeNibble, BitVec.toNat_ofNat]
    omega
  · refine ⟨rfl, ?_⟩
    simp only [State.storeNibble] at hten ⊢
    omega
  · simp only [State.storeNibble] at hj ⊢
    rw [Fin.getElem_fin, getElem_setNibble, if_neg (by omega)]
    exact hnib j (by omega)
  · simp [State.storeNibble]

/-- A trailing bit is only counted. -/
theorem trailingBit_decoderInv {s : State} (h : DecoderInvEm s) (hh : s.hp.toNat = 9) (hni : s.ni.toNat = 10)
    (hb : s.bc.toNat ≠ 54) : DecoderInvEm { s with bc := s.bc + 1#8 } := by
  obtain ⟨-, -, hdata⟩ := h
  obtain ⟨hle, -, htail, hnib, hgrp⟩ := hdata hh
  obtain ⟨hnp, hlo, hhi⟩ := htail hni
  have hbc' : (s.bc + 1#8).toNat = s.bc.toNat + 1 := by bv_omega
  refine ⟨hh.le, fun hlt => absurd hh hlt.ne, fun _ =>
    ⟨hle, fun hlt => absurd hni hlt.ne, fun _ => ⟨hnp, ?_⟩, hnib, hgrp⟩⟩
  dsimp only
  omega

/-- The count of a payload bit either completes the frame, which clears the decoder, or moves the cursor. -/
theorem State.countEmBit_decoderInv {s : State} (h : s.bc.toNat ≠ 54 → DecoderInvEm { s with bc := s.bc + 1#8 }) :
    DecoderInvEm s.countEmBit := by
  obtain ⟨_, e⟩ | ⟨hb, e⟩ := s.countEmBit_cases
  · rw [e]
    exact decoderInvEm_of_hunt (by simp [State.completeEm]) rfl rfl rfl rfl getElem_zeroNibbles_fin
  · rw [e]
    exact h hb

theorem State.sampleEm4100_decoderInv {s : State} (h : DecoderInvEm s) (d : Bool) :
    DecoderInvEm (s.sampleEm4100 d) := by
  have ⟨hle, hhunt, hdata⟩ := h
  obtain ⟨_, e⟩ | ⟨_, hh, _, e⟩ | ⟨_, hh, _, e⟩ | ⟨_, hh, hni, hnp, e⟩ | ⟨_, hh, hni, hnp, _, e⟩ |
    ⟨_, _, _, _, _, e⟩ | ⟨_, hh, hni, e⟩ := s.sampleEm4100_cases d
  all_goals rw [e]
  · exact h
  -- a `1` of the header, which the ninth confirms while nothing is stored
  · obtain ⟨hb, hnp, hni, hgrp, hnib⟩ := hhunt (by bv_omega)
    refine ⟨by simp only [State.answer_hp]; bv_omega, fun _ => ⟨hb, hnp, hni, hgrp, hnib⟩, fun _ => ?_⟩
    exact ⟨by simp [hni], by simp [hnp, hni, hb], by simp [hni], fun j _ => hnib j, by simp [hgrp]⟩
  -- a `0` before the header is complete starts over
  · obtain ⟨hb, hnp, hni, hgrp, hnib⟩ := hhunt (by bv_omega)
    exact decoderInvEm_of_hunt (by simp) hb hnp hni hgrp hnib
  -- a data bit, and a parity bit that agrees
  · exact State.countEmBit_decoderInv fun _ =>
      State.storeEmBit_decoderInv h (by bv_omega) (by bv_omega) (by bv_omega) d
  · exact State.countEmBit_decoderInv fun _ =>
      State.storeNibble_decoderInv h (by bv_omega) (by bv_omega) (by bv_omega)
  -- a parity bit that disagrees clears the decoder
  · exact decoderInvEm_of_hunt (by simp) rfl rfl rfl rfl getElem_zeroNibbles_fin
  -- a trailing bit
  · have hh9 : s.hp.toNat = 9 := by bv_omega
    obtain ⟨hle10, -⟩ := hdata hh9
    exact State.countEmBit_decoderInv (trailingBit_decoderInv h hh9 (by bv_omega))

theorem State.sampleEm4100_identityInv {s : State} (h : IdentityInv s) (d : Bool) :
    IdentityInv (s.sampleEm4100 d) := by
  obtain ⟨hrecord, hid, hvalid⟩ | ⟨hvalid, -⟩ := s.sampleEm4100_identity d
  · rw [IdentityInv, hrecord, hid, hvalid]
    exact h
  · simp [IdentityInv, hvalid]

theorem Inv.sampleEm4100 {s : State} (h : Inv s) (hp : s.protocol = .em4100) (d : Bool) :
    Inv (s.sampleEm4100 d) where
  fdxb hfdxb := by simp [hp] at hfdxb
  em4100 _ := State.sampleEm4100_decoderInv (h.em4100 hp) d
  idle := by
    cases hi : s.irqEn with
    | true => exact idleInv_of_irqEn h.session hi (exec_sameSession (exec_sampleEm4100 d s) (by simp) (by simp))
    | false =>
      rw [State.sampleEm4100_of_irqOff hi]
      exact h.idle
  mailbox := by
    obtain ⟨_, _, _, _, _, _, _, _, _, _, e⟩ := s.sampleEm4100_writes d
    rw [e]
    exact h.mailbox
  session := exec_keeps_sessionInv h.session (exec_sampleEm4100 d s)
  identity := State.sampleEm4100_identityInv h.identity d
  build := by
    obtain ⟨_, _, _, _, _, _, _, _, _, _, e⟩ := s.sampleEm4100_writes d
    rw [e]
    exact ⟨fun hfdxb => by simp [hp] at hfdxb, h.build.2⟩

/-! ### Every operation and every step -/

/-- Every operation of the build keeps the invariant. -/
theorem exec_keeps_inv {i : Instr} {s t : State} (hwf : i.wf s.protocol = true) (hs : Inv s)
    (h : exec i s = .next t) : Inv t := by
  cases i <;> cases h
  case sampleFdxb d => exact hs.sampleFdxb (by simpa [Instr.wf] using hwf) d
  case sampleEm4100 d => exact hs.sampleEm4100 (by simpa [Instr.wf] using hwf) d
  case activate => exact hs.activate
  case deactivate => exact hs.deactivate
  case format => exact hs.format
  -- `NOP` and the reserved words only answer
  all_goals exact hs.answer _

/-- Settles O10: reset establishes the invariant, and a fetch, a reset and every operation of the build keep it. -/
theorem everyStepKeepsTheInvariant : Obligations.EveryStepKeepsTheInvariant := by
  refine ⟨inv_resetOf, fun s t hs h => ?_⟩
  exact step_preserves (P := Inv) (fun _ => Inv.fetch) inv_resetStep (fun _ _ _ => exec_keeps_inv) hs h

end Sys2Proof.Machine
end

section
/-! PROOF. The frames as memory: the bytes and the record fields are named cells (20_memory.md R62, 30_encoding.md R92,
R95, R96), no other cell counts for `FORMAT` (R64), and the mailbox moves only as a whole (R72). -/

namespace Sys2Proof.Machine

/-! ### The bytes of a frame, cell by cell -/

theorem getLsbD_frameByte (f : Frame) (k : Nat) {i : Nat} (hi : i < 8) :
    (frameByte f k).getLsbD i = f.getLsbD (9 * k + i) :=
  getLsbD_memRead8 f (9 * k) hi

/-- A byte whose low bit stands at bit `8 k` of a wider word holds the bits `n` with `n / 8 = k`. -/
theorem getLsbD_setWidth_shiftLeft_byte (b : Byte) {w : Nat} (k : Nat) {n : Nat} (hn : n < w) :
    (b.setWidth w <<< (8 * k)).getLsbD n = (decide (n / 8 = k) && b.getLsbD (n % 8)) := by
  rw [BitVec.getLsbD_shiftLeft, BitVec.getLsbD_setWidth]
  rcases Nat.lt_trichotomy (n / 8) k with h | h | h
  · have hlow : n < 8 * k := by omega
    simp [hlow, h.ne]
  · have hin : n - 8 * k = n % 8 := by omega
    have hge : ¬ n < 8 * k := by omega
    have hw : n % 8 < w := by omega
    simp [h, hn, hin, hge, hw]
  · have hhigh : 8 ≤ n - 8 * k := by omega
    simp [BitVec.getLsbD_of_ge b _ hhigh, h.ne']

theorem getLsbD_and_low6 (b : Byte) {i : Nat} (hi : i < 6) : (b &&& 0x3F#8).getLsbD i = b.getLsbD i := by
  have hmask : (0x3F#8).getLsbD i = true := by interval_cases i <;> rfl
  rw [BitVec.getLsbD_and, hmask, Bool.and_true]

theorem getLsbD_and_high2_ushiftRight (b : Byte) (i : Nat) :
    ((b &&& 0xC0#8) >>> 6).getLsbD i = b.getLsbD (6 + i) := by
  rw [BitVec.getLsbD_ushiftRight, BitVec.getLsbD_and]
  obtain hi | hi : i < 2 ∨ 2 ≤ i := Nat.lt_or_ge i 2
  · have hmask : (0xC0#8).getLsbD (6 + i) = true := by interval_cases i <;> rfl
    rw [hmask, Bool.and_true]
  · rw [BitVec.getLsbD_of_ge b _ (by omega), Bool.false_and]

/-! ### The record fields as slices of the data bits -/

/-- Bit `n` of `tag_id` is bit `n % 8` of `byte[n / 8]`. -/
theorem getLsbD_tagIdOf (f : Frame) {n : Nat} (hn : n < 38) :
    (tagIdOf f).getLsbD n = (frameByte f (n / 8)).getLsbD (n % 8) := by
  have h0 := getLsbD_setWidth_shiftLeft_byte (frameByte f 0) 0 hn
  have h1 := getLsbD_setWidth_shiftLeft_byte (frameByte f 1) 1 hn
  have h2 := getLsbD_setWidth_shiftLeft_byte (frameByte f 2) 2 hn
  have h3 := getLsbD_setWidth_shiftLeft_byte (frameByte f 3) 3 hn
  have h4 := getLsbD_setWidth_shiftLeft_byte (frameByte f 4 &&& 0x3F#8) 4 hn
  simp only [Nat.reduceMul, BitVec.shiftLeft_zero] at h0 h1 h2 h3 h4
  simp only [tagIdOf, BitVec.getLsbD_or, h0, h1, h2, h3, h4]
  have hk : n / 8 < 5 := by omega
  have hlow : n / 8 = 4 → n % 8 < 6 := by omega
  generalize n / 8 = k at hk hlow
  obtain rfl | hk' : k = 4 ∨ k < 4 := by omega
  · simp [getLsbD_and_low6 _ (hlow rfl)]
  · interval_cases k
    all_goals simp

/-- `country_code` continues `tag_id`: the two high bits of `byte[4]`, then `byte[5]`. -/
theorem getLsbD_countryCodeOf (f : Frame) {n : Nat} (hn : n < 10) :
    (countryCodeOf f).getLsbD n = (frameByte f ((38 + n) / 8)).getLsbD ((38 + n) % 8) := by
  simp only [countryCodeOf, BitVec.getLsbD_or, BitVec.getLsbD_shiftLeft, BitVec.getLsbD_setWidth,
    getLsbD_and_high2_ushiftRight]
  obtain h | h : n < 2 ∨ 2 ≤ n := Nat.lt_or_ge n 2
  · have hk : (38 + n) / 8 = 4 := by omega
    have hi : (38 + n) % 8 = 6 + n := by omega
    simp [hk, hi, h, hn]
  · have hk : (38 + n) / 8 = 5 := by omega
    have hi : (38 + n) % 8 = n - 2 := by omega
    have hlow : n - 2 < 10 := by omega
    have hge : ¬ n < 2 := by omega
    simp [hk, hi, hn, hge, hlow, BitVec.getLsbD_of_ge (frameByte f 4) (6 + n) (by omega)]

/-- Settles O37: each field bit is a bit of one byte, and each byte bit is one cell. -/
theorem recordFieldsAreTheDataBits : Obligations.RecordFieldsAreTheDataBits := by
  intro f
  refine ⟨fun n hn => ?_, fun n hn => ?_, getLsbD_frameByte f 6 (by decide), getLsbD_frameByte f 7 (by decide)⟩
  · exact (getLsbD_tagIdOf f hn).trans (getLsbD_frameByte f _ (by omega))
  · exact (getLsbD_countryCodeOf f hn).trans (getLsbD_frameByte f _ (by omega))

/-! ### What `FORMAT` reads of the mailbox -/

theorem State.format_of_crcMatches {s : State} (hv : s.frameValid = true) (hc : crcMatches s.fo = true) :
    s.format = (s.emptyMailbox.storeRecord (recordOf s.fo)).answer .recordOk := by
  simp [State.format, hv, hc]

theorem State.format_of_crcMismatch {s : State} (hv : s.frameValid = true) (hc : crcMatches s.fo = false) :
    s.format = s.emptyMailbox.answer .checksumFailure := by
  simp [State.format, hv, hc]

/-- `FORMAT` consumes the frame: it leaves no trace but its check and its record. -/
theorem State.format_congr_fo {s : State} {f g : Frame} (hv : s.frameValid = true)
    (hcrc : crcMatches f = crcMatches g) (hrecord : recordOf f = recordOf g) :
    ({ s with fo := f } : State).format = ({ s with fo := g } : State).format := by
  cases hg : crcMatches g with
  | true =>
    rw [State.format_of_crcMatches (s := { s with fo := f }) hv (hcrc.trans hg),
      State.format_of_crcMatches (s := { s with fo := g }) hv hg, hrecord]
    rfl
  | false =>
    rw [State.format_of_crcMismatch (s := { s with fo := f }) hv (hcrc.trans hg),
      State.format_of_crcMismatch (s := { s with fo := g }) hv hg]
    rfl

/-! ### Frames that agree in the cells the formatter reads -/

/-- The frames agree in every cell some rule reads (20_memory.md R63, R64). -/
abbrev AgreeOnReadCells (f g : Frame) : Prop := ∀ i < 128, cellIsRead i = true → f.getLsbD i = g.getLsbD i

theorem cellIsRead_of_group {k i : Nat} (hk : k < 13) (hi : i < 8) : cellIsRead (9 * k + i) = true := by
  simp only [cellIsRead, Bool.and_eq_true, decide_eq_true_eq]
  omega

/-- The frames then agree in the data byte of each of the 13 groups. -/
theorem AgreeOnReadCells.frameByte_eq {f g : Frame} (h : AgreeOnReadCells f g) {k : Nat} (hk : k < 13) :
    frameByte f k = frameByte g k := by
  refine BitVec.eq_of_getLsbD_eq fun i hi => ?_
  rw [getLsbD_frameByte f k hi, getLsbD_frameByte g k hi]
  exact h _ (by omega) (cellIsRead_of_group hk hi)

theorem AgreeOnReadCells.frameBytes_eq {f g : Frame} (h : AgreeOnReadCells f g) : frameBytes f = frameBytes g :=
  List.map_congr_left fun k hk => h.frameByte_eq (by simp at hk; omega)

theorem crcRx_eq_frameByte (f : Frame) :
    crcRx f = (frameByte f 8).setWidth 16 ||| ((frameByte f 9).setWidth 16 <<< 8) := rfl

theorem extraByte_eq_frameByte (f : Frame) (j : Nat) : extraByte f j = frameByte f (10 + j) := by
  simp [extraByte, frameByte, Nat.mul_add]

theorem AgreeOnReadCells.crcMatches_eq {f g : Frame} (h : AgreeOnReadCells f g) : crcMatches f = crcMatches g := by
  have hrx : crcRx f = crcRx g := by
    simp [crcRx_eq_frameByte, h.frameByte_eq]
  rw [crcMatches, crcMatches, h.frameBytes_eq, hrx]

theorem AgreeOnReadCells.recordOf_eq {f g : Frame} (h : AgreeOnReadCells f g) : recordOf f = recordOf g := by
  simp [recordOf, tagIdOf, countryCodeOf, extraByte_eq_frameByte, h.frameByte_eq]

/-- Settles O38: `FORMAT` reads the mailbox through its check and its record alone, and these through the read cells. -/
theorem formatIgnoresTheUnreadCells : Obligations.FormatIgnoresTheUnreadCells := by
  intro s f g hv h
  have hagree : AgreeOnReadCells f g := h
  rw [exec_format, exec_format, State.format_congr_fo hv hagree.crcMatches_eq hagree.recordOf_eq]

/-! ### The mailbox -/

/-- The frame of the completing step (40_acquisition_fdxb.md R135). -/
theorem completedFrame_setBit (raw : Frame) (d : Bool) : CompletedFrame raw d (setBit raw 127 d) :=
  fun _ hi => getLsbD_setBit raw 127 d hi

/-- `SAMPLE` of an FDXB build leaves the mailbox alone, or completes a frame and puts all of it there. -/
theorem State.sampleFdxb_mailbox (d : Bool) (s : State) :
    SameMailbox s (s.sampleFdxb d) ∨
    ((s.sampleFdxb d).result = some .frameComplete ∧ (s.sampleFdxb d).frameValid = true ∧
      CompletedFrame s.raw d (s.sampleFdxb d).fo) := by
  obtain ⟨_, h⟩ | ⟨_, _, _, h⟩ | ⟨_, _, _, h⟩ | ⟨_, _, _, h⟩ | ⟨_, _, _, h⟩ | ⟨_, _, _, h⟩ | ⟨_, _, _, h⟩ :=
    s.sampleFdxb_cases d
  all_goals rw [h]
  case inr.inr.inr.inr.inr.inr => exact .inr ⟨rfl, rfl, completedFrame_setBit s.raw d⟩
  all_goals exact .inl ⟨rfl, rfl⟩

/-- `FORMAT` leaves the mailbox alone, or empties it (43_formatter.md R192). -/
theorem State.format_mailbox (s : State) :
    SameMailbox s s.format ∨ (s.format.fo = 0#128 ∧ s.format.frameValid = false) := by
  obtain ⟨_, h⟩ | ⟨_, _, h⟩ | ⟨_, _, h⟩ := s.format_cases
  all_goals rw [h]
  · exact .inl ⟨rfl, rfl⟩
  · exact .inr ⟨rfl, rfl⟩
  · exact .inr ⟨rfl, rfl⟩

/-- An operation leaves the mailbox alone, fills it with a completed frame, or is a `FORMAT` that empties it. -/
theorem exec_mailbox {i : Instr} {s t : State} (h : exec i s = .next t) :
    SameMailbox s t ∨
    (t.result = some .frameComplete ∧ t.frameValid = true ∧
      ∃ d, i = .sampleFdxb d ∧ CompletedFrame s.raw d t.fo) ∨
    (i = .format ∧ t.fo = 0#128 ∧ t.frameValid = false) := by
  obtain ⟨-, hmailbox, -⟩ := onlyTheNamedOperationsWrite i s t h
  cases i
  case sampleFdxb d =>
    cases h
    exact (s.sampleFdxb_mailbox d).imp_right fun ⟨hr, hv, hfo⟩ => .inl ⟨hr, hv, d, rfl, hfo⟩
  case format =>
    cases h
    exact s.format_mailbox.imp_right fun hempty => .inr ⟨rfl, hempty⟩
  all_goals exact .inl (hmailbox (by simp) (by simp))

/-- Settles O56: a fetch moves the ports alone, and the operation that follows changes the mailbox only as a whole. -/
theorem mailboxChangesOnlyAsAWhole : Obligations.MailboxChangesOnlyAsAWhole := by
  intro s t h hr hchanged
  rw [step_of_no_rst hr] at h
  have hcases := exec_mailbox h
  obtain ⟨p, rest, hf⟩ := s.fetch_cases
  have hmailbox : SameMailbox s.fetch t → SameMailbox s t := by rw [hf]; exact id
  have hraw : s.fetch.raw = s.raw := by rw [hf]
  rw [hraw] at hcases
  exact hcases.resolve_left fun hsame => hchanged (hmailbox hsame)

end Sys2Proof.Machine
end

section
/-! PROOF. The encodings: the event words (30_encoding.md R110, R111, R113), and the bytes, the checksum and the record
fields of a frame (R95 to R100). -/

namespace Sys2Proof.Machine

/-! ### Decoding and encoding undo each other -/

/-- Settles O2: the case split over the operations is `decode_encode`. -/
theorem decodeOfEncodeIsTheInstruction : Obligations.DecodeOfEncodeIsTheInstruction :=
  fun _ _ h => decode_encode h

/-- Settles O1: each word of the map is the encoding of the operation of its row. -/
theorem eventWordsDecodeAsTheOpcodeMap : Obligations.EventWordsDecodeAsTheOpcodeMap := by
  refine ⟨fun p => ?_, decode_sample .fdxb false, decode_sample .fdxb true, decode_sample .em4100 false,
    decode_sample .em4100 true⟩
  have row (i : Instr) (hwf : i.wf p = true) : decode p (encode i) = i := decode_encode hwf
  exact ⟨row .nop rfl, row .activate rfl, row .deactivate rfl, row .format rfl, row .reserved1 rfl,
    row .reserved5 rfl, row .reserved7 rfl, row .reserved9 rfl, row (.reservedAB false) rfl,
    row (.reservedAB true) rfl, fun x => row (.reservedCF x) rfl⟩

/-- An event word is its two fields (30_encoding.md R110). -/
theorem eq_eventWord_of_fields {ev : EventWord} {k : Nat} {d : Bool} (hop : (opField ev).toNat = k)
    (hd : dField ev = d) : ev = eventWord (BitVec.ofNat 3 k) d := by
  subst hop hd
  rw [BitVec.ofNat_toNat, BitVec.setWidth_eq]
  revert ev
  decide

/-- The words `0xC` to `0xF` are `0b11` before their two free bits. -/
theorem append_extractLsb'_of_six_le_opField {ev : EventWord} (h : 6 ≤ (opField ev).toNat) :
    0b11#2 ++ ev.extractLsb' 0 2 = ev := by
  revert ev
  decide

theorem encode_sampleOf (p : Protocol) (d : Bool) : encode (sampleOf p d) = eventWord 0b001#3 d := by
  cases p <;> rfl

theorem sampleOf_wf (p : Protocol) (d : Bool) : (sampleOf p d).wf p = true := by
  cases p <;> rfl

/-- Every word is an operation of the build (30_encoding.md R113). -/
theorem decode_wf (p : Protocol) (ev : EventWord) : (decode p ev).wf p = true := by
  unfold decode
  split
  case h_3 => exact sampleOf_wf p _
  all_goals rfl

/-- Encoding the operation of a word gives the word back: no bit of it is lost. -/
theorem encode_decode (p : Protocol) (ev : EventWord) : encode (decode p ev) = ev := by
  unfold decode
  split
  case h_3 hop =>
    rw [encode_sampleOf]
    exact (eq_eventWord_of_fields hop rfl).symm
  case h_10 hop => exact (eq_eventWord_of_fields hop rfl).symm
  case h_11 =>
    have hop : 6 ≤ (opField ev).toNat := by grind
    exact append_extractLsb'_of_six_le_opField hop
  all_goals exact (eq_eventWord_of_fields ‹_› ‹_›).symm

/-- Settles O3: along the branches of `decode`, each of which keeps the fields of the word. -/
theorem encodeOfDecodeIsTheWord : Obligations.EncodeOfDecodeIsTheWord :=
  fun p ev => ⟨decode_wf p ev, encode_decode p ev⟩

/-! ### The reserved words -/

theorem exec_total (i : Instr) (s : State) : ∃ t, exec i s = .next t := by
  cases i
  all_goals exact ⟨_, rfl⟩

theorem exec_of_isReserved {i : Instr} (s : State) (h : i.isReserved = true) :
    exec i s = .next (s.answer .badOp) := by
  cases i with
  | reserved1 | reserved5 | reserved7 | reserved9 | reservedAB _ | reservedCF _ => rfl
  | nop | sampleFdxb _ | sampleEm4100 _ | activate | deactivate | format => cases h

/-- The reserved operations are those of the reserved words (30_encoding.md R111). -/
theorem isReserved_iff_encode (i : Instr) :
    i.isReserved = true ↔
      encode i = 0x1#4 ∨ encode i = 0x5#4 ∨ encode i = 0x7#4 ∨ encode i = 0x9#4 ∨ 0xA#4 ≤ encode i := by
  cases i with
  | sampleFdxb d | sampleEm4100 d | reservedAB d => revert d; decide
  | reservedCF x => revert x; decide
  | nop | activate | deactivate | format | reserved1 | reserved5 | reserved7 | reserved9 => decide

/-- Settles O53: a word is the encoding of its operation, so the reserved words are those of the reserved
operations. -/
theorem reservedWordsChangeNothing : Obligations.ReservedWordsChangeNothing := by
  refine ⟨fun i s h => exec_of_isReserved s h, fun p ev => ?_, fun p ev s => exec_total (decode p ev) s⟩
  have h := isReserved_iff_encode (decode p ev)
  rwa [encode_decode] at h

/-! ### The bytes of a frame -/

/-- The transmitted checksum is the data bytes of the groups 8 and 9 (30_encoding.md R96). -/
theorem getLsbD_crcRx (f : Frame) {n : Nat} (hn : n < 16) :
    (crcRx f).getLsbD n = (frameByte f (8 + n / 8)).getLsbD (n % 8) := by
  have hlow := getLsbD_setWidth_shiftLeft_byte (frameByte f 8) 0 hn
  have hhigh := getLsbD_setWidth_shiftLeft_byte (frameByte f 9) 1 hn
  simp only [Nat.reduceMul, BitVec.shiftLeft_zero] at hlow hhigh
  rw [crcRx_eq_frameByte, BitVec.getLsbD_or, hlow, hhigh]
  obtain hk | hk : n / 8 = 0 ∨ n / 8 = 1 := by omega
  · simp [hk]
  · simp [hk]

/-- Settles O35: each byte is the data byte of one group. -/
theorem frameBytesAreTheCells : Obligations.FrameBytesAreTheCells := by
  intro f
  have crcCell {n : Nat} (hn : n < 16) : (crcRx f).getLsbD n = f.getLsbD (9 * (8 + n / 8) + n % 8) :=
    (getLsbD_crcRx f hn).trans (getLsbD_frameByte f _ (by omega))
  refine ⟨fun k _ i hi => getLsbD_frameByte f k hi, fun i hi => ?_, fun i hge hlt => ?_,
    fun j _ i hi => getLsbD_memRead8 f _ hi⟩
  · rw [crcCell (by omega), show 9 * (8 + i / 8) + i % 8 = 72 + i by omega]
  · rw [crcCell hlt, show 9 * (8 + i / 8) + i % 8 = 73 + i by omega]

/-! ### The record fields as numbers -/

/-- A value put above the bits of another, with no bit lost, is added to it. -/
theorem toNat_or_setWidth_shiftLeft {v w k : Nat} {x : BitVec w} {b : BitVec v} (hx : x.toNat < 2 ^ k)
    (hb : b.toNat * 2 ^ k < 2 ^ w) : (x ||| b.setWidth w <<< k).toNat = x.toNat + b.toNat * 2 ^ k := by
  have hbw : b.toNat < 2 ^ w := (Nat.le_mul_of_pos_right _ (Nat.two_pow_pos k)).trans_lt hb
  rw [BitVec.toNat_or, BitVec.toNat_shiftLeft, BitVec.toNat_setWidth, Nat.mod_eq_of_lt hbw, Nat.shiftLeft_eq,
    Nat.mod_eq_of_lt hb, Nat.or_comm, ← Nat.shiftLeft_eq, ← Nat.shiftLeft_add_eq_or_of_lt hx, Nat.shiftLeft_eq,
    Nat.add_comm]

theorem toNat_and_low6 (b : Byte) : (b &&& 0x3F#8).toNat = b.toNat % 64 :=
  Nat.and_two_pow_sub_one_eq_mod b.toNat 6

theorem toNat_and_high2_ushiftRight (b : Byte) : ((b &&& 0xC0#8) >>> 6).toNat = b.toNat / 64 := by
  have h : (b &&& 0xC0#8) >>> 6 = b >>> 6 := BitVec.eq_of_getLsbD_eq fun i _ => by
    rw [getLsbD_and_high2_ushiftRight, BitVec.getLsbD_ushiftRight]
  rw [h, BitVec.toNat_ushiftRight, Nat.shiftRight_eq_div_pow]

/-- The value joined so far always stays below the place of the next byte. -/
theorem toNat_tagIdOf (f : Frame) :
    (tagIdOf f).toNat
      = (frameByte f 0).toNat + (frameByte f 1).toNat * 2 ^ 8 + (frameByte f 2).toNat * 2 ^ 16
        + (frameByte f 3).toNat * 2 ^ 24 + ((frameByte f 4).toNat % 64) * 2 ^ 32 := by
  have b0 := (frameByte f 0).isLt
  have b1 := (frameByte f 1).isLt
  have b2 := (frameByte f 2).isLt
  have b3 := (frameByte f 3).isLt
  have b4 := toNat_and_low6 (frameByte f 4)
  have h0 : ((frameByte f 0).setWidth 38).toNat = (frameByte f 0).toNat := by
    rw [BitVec.toNat_setWidth]; omega
  unfold tagIdOf
  generalize (frameByte f 0).setWidth 38 = x0 at h0 ⊢
  have h1 := toNat_or_setWidth_shiftLeft (k := 8) (x := x0) (b := frameByte f 1) (by omega) (by omega)
  generalize x0 ||| (frameByte f 1).setWidth 38 <<< 8 = x1 at h1 ⊢
  have h2 := toNat_or_setWidth_shiftLeft (k := 16) (x := x1) (b := frameByte f 2) (by omega) (by omega)
  generalize x1 ||| (frameByte f 2).setWidth 38 <<< 16 = x2 at h2 ⊢
  have h3 := toNat_or_setWidth_shiftLeft (k := 24) (x := x2) (b := frameByte f 3) (by omega) (by omega)
  generalize x2 ||| (frameByte f 3).setWidth 38 <<< 24 = x3 at h3 ⊢
  have h4 := toNat_or_setWidth_shiftLeft (k := 32) (x := x3) (b := frameByte f 4 &&& 0x3F#8) (by omega) (by omega)
  rw [h4, h3, h2, h1, h0, b4]

theorem toNat_countryCodeOf (f : Frame) :
    (countryCodeOf f).toNat = (frameByte f 5).toNat * 4 + (frameByte f 4).toNat / 64 := by
  have hb := toNat_and_high2_ushiftRight (frameByte f 4)
  have h5 := (frameByte f 5).isLt
  have h4 := (frameByte f 4).isLt
  have hlow : (((frameByte f 4 &&& 0xC0#8) >>> 6).setWidth 10).toNat = (frameByte f 4).toNat / 64 := by
    rw [BitVec.toNat_setWidth, hb]; omega
  rw [countryCodeOf, BitVec.or_comm, toNat_or_setWidth_shiftLeft (by omega) (by omega), hlow]
  omega

/-- Settles O36: the parts that `tag_id` and `country_code` join overlap in no bit, so that they add up. -/
theorem recordFieldsFromTheBytes : Obligations.RecordFieldsFromTheBytes :=
  fun f => ⟨toNat_tagIdOf f, toNat_countryCodeOf f, rfl, rfl⟩

end Sys2Proof.Machine
end

section
/-! PROOF. `SAMPLE` of an FDXB build (40_acquisition_fdxb.md R130 to R135), bit by bit and over the streams of a header
and a frame (R138). -/

namespace Sys2Proof.Machine

/-! ### The gate, both builds -/

theorem State.takesEdge_of_irqOff {s : State} (h : s.irqEn = false) : s.takesEdge = false := by
  simp [State.takesEdge, h]

/-- Settles O13: the gate answers before any phase, and no edge is taken. -/
theorem sampleIsIgnoredWhileTheInterruptIsOff : Obligations.SampleIsIgnoredWhileTheInterruptIsOff := by
  refine ⟨fun s d h => ⟨?_, ?_⟩, fun s edge p h => ?_⟩
  · rw [exec_sampleFdxb, State.sampleFdxb_of_irqOff h]
    rfl
  · rw [exec_sampleEm4100, State.sampleEm4100_of_irqOff h]
    rfl
  · have ht := State.takesEdge_of_irqOff h
    exact ⟨by rw [ht, Pins.edgeEvents_off], State.presentPins_lost ht⟩

/-! ### The hunt and boundary phases -/

/-- `hp` after a line level before the header is confirmed (40_acquisition_fdxb.md R132, R133). -/
def huntFdxb (hp : BitVec 4) (d : Bool) : BitVec 4 :=
  if d then (if hp = 10#4 then 11#4 else 0#4) else (if hp = 10#4 then 0#4 else hp + 1#4)

/-- Before the header is confirmed a `SAMPLE` moves `hp` alone. -/
theorem State.sampleFdxb_of_hunt {s : State} (hi : s.irqEn = true) (hh : s.hp ≤ 10#4) (d : Bool) :
    s.sampleFdxb d = { s with hp := huntFdxb s.hp d }.answer .ok := by
  by_cases hb : s.hp = 10#4
  · cases d <;> simp [State.sampleFdxb, huntFdxb, hi, hb]
  · have hlt : s.hp < 10#4 := by bv_omega
    cases d <;> simp [State.sampleFdxb, huntFdxb, hi, hb, hlt]

/-- Settles O14: the two ways `huntFdxb` goes below the boundary. -/
theorem fdxbHuntPhase : Obligations.FdxbHuntPhase := by
  intro s hi hlt
  have hle : s.hp ≤ 10#4 := by bv_omega
  have hne : s.hp ≠ 10#4 := by bv_omega
  rw [exec_sampleFdxb, exec_sampleFdxb, State.sampleFdxb_of_hunt hi hle, State.sampleFdxb_of_hunt hi hle]
  simp [huntFdxb, hne, State.answer]

/-- In the hunt `hp` counts the zeros just before, modulo 11. -/
theorem huntFdxb_zero (n : Nat) : huntFdxb (BitVec.ofNat 4 (n % 11)) false = BitVec.ofNat 4 ((n + 1) % 11) := by
  rw [Nat.add_mod]
  have hn : n % 11 < 11 := Nat.mod_lt n (by decide)
  generalize n % 11 = m at hn
  revert m
  decide

theorem huntFdxb_one (n : Nat) :
    huntFdxb (BitVec.ofNat 4 (n % 11)) true = if n % 11 = 10 then 11#4 else 0#4 := by
  have hn : n % 11 < 11 := Nat.mod_lt n (by decide)
  generalize n % 11 = m at hn
  revert m
  decide

/-! ### The data phase -/

theorem State.sampleFdxb_of_data {s : State} (hi : s.irqEn = true) (hh : s.hp = 11#4) (d : Bool) :
    s.sampleFdxb d = s.takeFdxbBit d := by
  simp [State.sampleFdxb, hi, hh]

/-- A payload bit before the last is stored. -/
theorem State.sampleFdxb_of_payload {s : State} (hi : s.irqEn = true) (hh : s.hp = 11#4) (hb : s.bc.toNat < 127)
    (d : Bool) : s.sampleFdxb d = (s.storeFdxbBit d).answer .ok := by
  rw [State.sampleFdxb_of_data hi hh]
  exact if_neg (by omega)

/-- The last payload bit completes the frame. -/
theorem State.sampleFdxb_of_lastBit {s : State} (h : AtLastBitFdxb s) (d : Bool) :
    s.sampleFdxb d = (s.completeFdxb d).answer .frameComplete := by
  obtain ⟨hi, hh, hb⟩ := h
  rw [State.sampleFdxb_of_data hi hh]
  exact if_pos (by simp [hb])

/-- Settles O17: the completing step and the storing step, field by field. -/
theorem fdxbCompletion : Obligations.FdxbCompletion := by
  refine ⟨fun s d hi hh hb => ⟨setBit s.raw 127 d, ?_, completedFrame_setBit s.raw d⟩, fun s d hi hh hb => ?_⟩
  · rw [exec_sampleFdxb, State.sampleFdxb_of_lastBit ⟨hi, hh, hb⟩]
    rfl
  · rw [exec_sampleFdxb, State.sampleFdxb_of_payload hi hh hb]
    exact ⟨_, rfl, rfl, hh, rfl, ⟨rfl, rfl⟩, rfl⟩

/-- Settles O18: of all a `SAMPLE` can do only the completing case answers so, and the invariant bounds its counters. -/
theorem fdxbFrameCompleteExactlyOnTheLastBit : Obligations.FdxbFrameCompleteExactlyOnTheLastBit := by
  intro s t d hp hinv h
  cases h
  refine ⟨fun hr => ?_, fun hlast => ?_⟩
  · obtain ⟨hle, -, hdata⟩ := hinv.fdxb hp
    obtain ⟨_, e⟩ | ⟨_, _, _, e⟩ | ⟨_, _, _, e⟩ | ⟨_, _, _, e⟩ | ⟨_, _, _, e⟩ | ⟨_, _, _, e⟩ | ⟨hi, hh, hb, _⟩ :=
      s.sampleFdxb_cases d
    case inr.inr.inr.inr.inr.inr =>
      obtain ⟨hbc, -⟩ := hdata (by bv_omega)
      exact ⟨hi, by bv_omega, by bv_omega⟩
    -- no other case answers `FRAME_COMPLETE`
    all_goals
      rw [e] at hr
      cases hr
  · rw [State.sampleFdxb_of_lastBit hlast]
    rfl

/-! ### Runs of `SAMPLE` steps in an FDXB build -/

/-- An FDXB build with the interrupt on, to which `inputs` is presented. -/
structure SamplingFdxb (inputs : List PortInput) (s : State) : Prop where
  protocol : s.protocol = .fdxb
  irqEn : s.irqEn = true
  inputs : s.inputs = inputs

/-- `t` is the state after the `SAMPLE`s of `bits` from `s`, before `rest`; the identity and the session stand. -/
structure SampleRunFdxb (bits : List (Bool × Ticks)) (rest : List PortInput) (s t : State) : Prop where
  run : runSteps bits.length s = .next t
  sampling : SamplingFdxb rest t
  identity : SameIdentity s t
  session : SameSession s t

/-- The run of one bit is one `SAMPLE`. -/
theorem sampleRunFdxb_singleton {s : State} {b : Bool × Ticks} {rest : List PortInput}
    (hs : SamplingFdxb (sampleInputs [b] ++ rest) s) :
    SampleRunFdxb [b] rest s ((s.atSample b rest).sampleFdxb b.1) := by
  obtain ⟨_, _, _, _, _, _, _, e⟩ := (s.atSample b rest).sampleFdxb_writes b.1
  refine ⟨runSteps_sampleFdxb (bs := []) 0 hs.protocol hs.inputs, ?_, ?_, ?_⟩
  all_goals rw [e]
  · exact ⟨hs.protocol, hs.irqEn, rfl⟩
  · exact ⟨rfl, rfl, rfl⟩
  · exact ⟨rfl, rfl, rfl, rfl, rfl⟩

/-- Two runs, one after the other. -/
theorem SampleRunFdxb.append {before after : List (Bool × Ticks)} {inputs rest : List PortInput} {s u t : State}
    (h₁ : SampleRunFdxb before inputs s u) (h₂ : SampleRunFdxb after rest u t) :
    SampleRunFdxb (before ++ after) rest s t where
  run := by rw [List.length_append, runSteps_add _ h₁.run, h₂.run]
  sampling := h₂.sampling
  identity := by simpa only [SameIdentity, h₁.identity] using h₂.identity
  session := by simpa only [SameSession, h₁.session] using h₂.session

/-- The induction over a stream, once: what holds of the bits to come and the state, and every `SAMPLE` keeps, holds at
the end. -/
theorem exists_sampleRunFdxb {P : List (Bool × Ticks) → State → Prop}
    (hsample : ∀ (b : Bool × Ticks) (later : List (Bool × Ticks)) (inputs : List PortInput) (u : State),
      u.irqEn = true → P (b :: later) u → P later ((u.atSample b inputs).sampleFdxb b.1))
    {bits : List (Bool × Ticks)} {rest : List PortInput} {s : State}
    (hs : SamplingFdxb (sampleInputs bits ++ rest) s) (h : P bits s) :
    ∃ t, SampleRunFdxb bits rest s t ∧ P [] t := by
  induction bits generalizing s with
  | nil => exact ⟨s, ⟨rfl, hs, ⟨rfl, rfl, rfl⟩, ⟨rfl, rfl, rfl, rfl, rfl⟩⟩, h⟩
  | cons b later ih =>
    have hone := sampleRunFdxb_singleton (b := b) (rest := sampleInputs later ++ rest) hs
    obtain ⟨t, hrun, ht⟩ := ih hone.sampling (hsample b later _ s hs.irqEn h)
    exact ⟨t, hone.append hrun, ht⟩

/-! ### Where the stream holds a header -/

/-- `t` is where the hunt stands after `n` zeros, and `s` but for `hp`, the ports and the answer. -/
structure HuntedFdxb (s : State) (n : Nat) (t : State) : Prop where
  hp : t.hp = BitVec.ofNat 4 (n % 11)
  raw : t.raw = s.raw
  bc : t.bc = s.bc
  mailbox : SameMailbox s t
  endTime : t.endTime = s.endTime

theorem HuntedFdxb.hp_le {s t : State} {n : Nat} (h : HuntedFdxb s n t) : t.hp.toNat ≤ 10 := by
  rw [h.hp, BitVec.toNat_ofNat]
  omega

/-- The next `SAMPLE` of the hunt. -/
theorem HuntedFdxb.sampleFdxb {s u : State} {n : Nat} (h : HuntedFdxb s n u) (hi : u.irqEn = true) (b : Bool × Ticks)
    (inputs : List PortInput) :
    (u.atSample b inputs).sampleFdxb b.1 =
      { u.atSample b inputs with hp := huntFdxb (BitVec.ofNat 4 (n % 11)) b.1 }.answer .ok := by
  rw [State.sampleFdxb_of_hunt (s := u.atSample b inputs) hi h.hp_le, ← h.hp]
  rfl

/-- A stream that holds no header ends where the model's own scan of it, `holdsHeaderAfter`, ends. -/
theorem exists_sampleRunFdxb_hunted {s : State} {bits : List (Bool × Ticks)} {rest : List PortInput}
    (hs : SamplingFdxb (sampleInputs bits ++ rest) s) (hh : s.hp = 0#4)
    (hno : holdsHeaderFdxb (bits.map Prod.fst) = false) :
    ∃ t, SampleRunFdxb bits rest s t ∧
      ∃ n, HuntedFdxb s n t ∧ ∀ more, holdsHeaderAfter n more = holdsHeaderFdxb (bits.map Prod.fst ++ more) := by
  refine exists_sampleRunFdxb (P := fun later u => ∃ n, HuntedFdxb s n u ∧
    ∀ more, holdsHeaderAfter n (later.map Prod.fst ++ more) = holdsHeaderFdxb (bits.map Prod.fst ++ more)) ?_ hs
    ⟨0, ⟨hh, rfl, rfl, ⟨rfl, rfl⟩, rfl⟩, fun _ => rfl⟩
  rintro ⟨d, time⟩ later inputs u hi ⟨n, hu, hscan⟩
  have hnext := hu.sampleFdxb hi (d, time) inputs
  cases d with
  | false =>
    rw [hnext]
    exact ⟨n + 1, ⟨huntFdxb_zero n, hu.raw, hu.bc, hu.mailbox, hu.endTime⟩, hscan⟩
  | true =>
    -- a `1` after a run of another length, or the stream would hold a header
    have hnone := hscan []
    simp only [List.append_nil, hno, List.map_cons, holdsHeaderAfter_true, Bool.or_eq_false_iff,
      beq_eq_false_iff_ne] at hnone
    obtain ⟨hn, -⟩ := hnone
    rw [hnext]
    refine ⟨0, ⟨(huntFdxb_one n).trans (if_neg hn), hu.raw, hu.bc, hu.mailbox, hu.endTime⟩, fun more => ?_⟩
    simpa only [List.map_cons, List.cons_append, holdsHeaderAfter_true, beq_false_of_ne hn, Bool.false_or]
      using hscan more

/-- `n` zeros and a `1` from `hp = 0`: the header is confirmed or the hunt starts over. -/
theorem exists_sampleRunFdxb_zeros_one {s : State} {n : Nat} {bits : List (Bool × Ticks)} {rest : List PortInput}
    (hs : SamplingFdxb (sampleInputs bits ++ rest) s) (hh : s.hp = 0#4)
    (hbits : bits.map Prod.fst = List.replicate n false ++ [true]) :
    ∃ t, SampleRunFdxb bits rest s t ∧ t.hp = (if n % 11 = 10 then 11#4 else 0#4) ∧ t.raw = s.raw ∧ t.bc = s.bc := by
  obtain ⟨zeros, ones, rfl, hzeros, hone⟩ := List.map_eq_append_iff.mp hbits
  obtain ⟨⟨d, time⟩, rfl, rfl⟩ := List.map_eq_singleton_iff.mp hone
  rw [sampleInputs_append, List.append_assoc] at hs
  have hscan (more : List Bool) : holdsHeaderFdxb (zeros.map Prod.fst ++ more) = holdsHeaderAfter n more := by
    rw [hzeros, holdsHeaderFdxb, holdsHeaderAfter_zeros, Nat.zero_add]
  obtain ⟨u, hrun, m, hu, hm⟩ := exists_sampleRunFdxb_hunted hs hh (by simpa using hscan [])
  have hmn : m % 11 = 10 ↔ n % 11 = 10 := by
    simpa using (hm [true]).trans (hscan [true])
  refine ⟨_, hrun.append (sampleRunFdxb_singleton hrun.sampling), ?_⟩
  rw [hu.sampleFdxb hrun.sampling.irqEn]
  exact ⟨(huntFdxb_one m).trans (by simp only [hmn]), hu.raw, hu.bc⟩

/-- Settles O15: the two ways `huntFdxb` goes at the boundary, and the run of a stream of zeros and a `1`. -/
theorem fdxbBoundaryPhase : Obligations.FdxbBoundaryPhase := by
  refine ⟨fun s hi hh => ?_, fun s n bits rest hp hi hh hbits hin => ?_⟩
  · rw [exec_sampleFdxb, exec_sampleFdxb, State.sampleFdxb_of_hunt hi (by simp [hh]),
      State.sampleFdxb_of_hunt hi (by simp [hh])]
    simp [huntFdxb, hh, State.answer]
  · obtain ⟨t, hrun, hthp, hraw, hbc⟩ := exists_sampleRunFdxb_zeros_one ⟨hp, hi, hin⟩ hh hbits
    refine ⟨t, hrun.run, ?_, hraw, hbc⟩
    rw [hthp]
    by_cases hn : n % 11 = 10
    · simp [hn]
    · simp [hn]

/-- The beginning of a stream that holds no header holds none. -/
theorem holdsHeaderFdxb_of_append {before after : List Bool} (h : holdsHeaderFdxb (before ++ after) = false) :
    holdsHeaderFdxb before = false := by
  rw [Bool.eq_false_iff] at h ⊢
  refine fun hb => h ?_
  obtain ⟨front, n, rest, rfl, hfront, hn⟩ := (holdsHeaderFdxb_iff before).mp hb
  exact (holdsHeaderFdxb_iff _).mpr ⟨front, n, rest ++ after, by simp, hfront, hn⟩

/-- Settles O19: each beginning of the stream holds no header, so after it the hunt goes on. -/
theorem fdxbNoHeaderNoAcquisition : Obligations.FdxbNoHeaderNoAcquisition := by
  intro s bits rest hp hi hh hb hno hin k hk
  rw [← List.take_append_drop k bits] at hno hin
  rw [sampleInputs_append, List.append_assoc] at hin
  rw [List.map_append] at hno
  obtain ⟨t, hrun, n, ht, -⟩ := exists_sampleRunFdxb_hunted ⟨hp, hi, hin⟩ hh (holdsHeaderFdxb_of_append hno)
  have hsteps := hrun.run
  rw [List.length_take_of_le hk] at hsteps
  exact ⟨t, hsteps, ht.bc.trans hb, ht.hp_le, ht.raw, ht.mailbox, ht.endTime⟩

/-! ### From the header to the mailbox -/

/-- Writing cell `n` adds its bit to the cells before it. -/
theorem map_getLsbD_setBit (raw : Frame) {n : Nat} (hn : n < 128) (d : Bool) :
    (List.range (n + 1)).map (setBit raw n d).getLsbD = (List.range n).map raw.getLsbD ++ [d] := by
  have hlow : (List.range n).map (setBit raw n d).getLsbD = (List.range n).map raw.getLsbD := by
    refine List.map_congr_left fun i hi => ?_
    have hi' : i < n := List.mem_range.mp hi
    rw [getLsbD_setBit _ _ _ (by omega), if_neg hi'.ne]
  rw [List.range_succ, List.map_append, hlow, List.map_singleton, getLsbD_setBit _ _ _ hn, if_pos rfl]

theorem frameBits_injective : Function.Injective frameBits := by
  intro f g h
  refine BitVec.eq_of_getLsbD_eq fun i hi => ?_
  exact List.map_inj_left.mp h i (List.mem_range.mpr hi)

/-- The header is confirmed, and `taken` are the payload bits since. -/
structure TakenFdxb (taken : List (Bool × Ticks)) (t : State) : Prop where
  hp : t.hp = 11#4
  bc : t.bc.toNat = taken.length
  raw : (List.range taken.length).map t.raw.getLsbD = taken.map Prod.fst

theorem takenFdxb_nil {s : State} (hh : s.hp = 11#4) (hb : s.bc = 0#8) : TakenFdxb [] s :=
  ⟨hh, by simp [hb], rfl⟩

theorem TakenFdxb.storeFdxbBit {u : State} {taken : List (Bool × Ticks)} (h : TakenFdxb taken u)
    (hlen : taken.length < 127) (b : Bool × Ticks) (inputs : List PortInput) (r : Status) :
    TakenFdxb (taken ++ [b]) (((u.atSample b inputs).storeFdxbBit b.1).answer r) where
  hp := h.hp
  bc := by
    have hbc := h.bc
    simp only [State.answer_bc, State.storeFdxbBit, State.atSample, List.length_append, List.length_singleton]
    bv_omega
  raw := by
    simp only [State.answer_raw, State.storeFdxbBit, State.atSample, h.bc, List.length_append, List.length_singleton,
      List.map_append, List.map_singleton]
    rw [map_getLsbD_setBit _ (by omega), h.raw]

/-- Up to 127 payload bits are stored. -/
theorem exists_sampleRunFdxb_taken {s : State} {bits : List (Bool × Ticks)} {rest : List PortInput}
    (hs : SamplingFdxb (sampleInputs bits ++ rest) s) (hh : s.hp = 11#4) (hb : s.bc = 0#8) (hlen : bits.length < 128) :
    ∃ t, SampleRunFdxb bits rest s t ∧ TakenFdxb bits t := by
  obtain ⟨t, hrun, taken, hbits, ht⟩ :
      ∃ t, SampleRunFdxb bits rest s t ∧ ∃ taken, taken ++ [] = bits ∧ TakenFdxb taken t := by
    refine exists_sampleRunFdxb (P := fun later u => ∃ taken, taken ++ later = bits ∧ TakenFdxb taken u) ?_ hs
      ⟨[], rfl, takenFdxb_nil hh hb⟩
    rintro b later inputs u hi ⟨taken, rfl, hu⟩
    have hlt : taken.length < 127 := by
      rw [List.length_append, List.length_cons] at hlen
      omega
    rw [State.sampleFdxb_of_payload (s := u.atSample b inputs) hi hu.hp (hu.bc.trans_lt hlt)]
    exact ⟨taken ++ [b], by simp, hu.storeFdxbBit hlt b inputs .ok⟩
  rw [List.append_nil] at hbits
  exact ⟨t, hrun, hbits ▸ ht⟩

/-- A frame has entered the mailbox with the bits of `bits`, and the engine is back at 0. -/
structure CompletedFdxb (bits : List (Bool × Ticks)) (t : State) : Prop where
  fo : frameBits t.fo = bits.map Prod.fst
  frameValid : t.frameValid = true
  result : t.result = some .frameComplete
  endTime : (bits.map Prod.snd).getLast? = some t.endTime
  hp : t.hp = 0#4
  bc : t.bc = 0#8
  raw : t.raw = 0#128

theorem TakenFdxb.completeFdxb {u : State} {taken : List (Bool × Ticks)} (h : TakenFdxb taken u)
    (hlen : taken.length = 127) (b : Bool × Ticks) (inputs : List PortInput) :
    CompletedFdxb (taken ++ [b]) (((u.atSample b inputs).completeFdxb b.1).answer .frameComplete) where
  fo := by
    have hraw := h.raw
    rw [hlen] at hraw
    rw [List.map_append, ← hraw]
    exact map_getLsbD_setBit u.raw (by decide) b.1
  frameValid := rfl
  result := rfl
  endTime := by
    rw [List.map_append, List.map_singleton, List.getLast?_concat]
    rfl
  hp := rfl
  bc := rfl
  raw := rfl

/-- 128 payload bits are a frame: 127 are stored, and the last one completes it. -/
theorem exists_sampleRunFdxb_completed {s : State} {bits : List (Bool × Ticks)} {rest : List PortInput}
    (hs : SamplingFdxb (sampleInputs bits ++ rest) s) (hh : s.hp = 11#4) (hb : s.bc = 0#8) (hlen : bits.length = 128) :
    ∃ t, SampleRunFdxb bits rest s t ∧ CompletedFdxb bits t := by
  obtain rfl | ⟨taken, b, rfl⟩ := List.eq_nil_or_concat' bits
  · cases hlen
  have hlen' : taken.length = 127 := by simpa using hlen
  rw [sampleInputs_append, List.append_assoc] at hs
  obtain ⟨u, hrun, hu⟩ := exists_sampleRunFdxb_taken hs hh hb (by omega)
  refine ⟨_, hrun.append (sampleRunFdxb_singleton hrun.sampling), ?_⟩
  have hbc : u.bc = 127#8 := BitVec.eq_of_toNat_eq (hu.bc.trans hlen')
  rw [State.sampleFdxb_of_lastBit (s := u.atSample b rest) ⟨hrun.sampling.irqEn, hu.hp, hbc⟩]
  exact hu.completeFdxb hlen' b rest

/-- Settles O16: the storing step, and the runs of the payload bits before and with the last. -/
theorem fdxbDataPhase : Obligations.FdxbDataPhase := by
  refine ⟨fun s d hi hh hb => ?_, fun s bits rest hp hi hh hb hin => ⟨fun hlen => ?_, fun hlen => ?_⟩⟩
  · refine ⟨setBit s.raw s.bc.toNat d, ?_, fun i hi => getLsbD_setBit _ _ d hi⟩
    rw [exec_sampleFdxb, State.sampleFdxb_of_payload hi hh hb]
    rfl
  · obtain ⟨t, hrun, ht⟩ := exists_sampleRunFdxb_taken ⟨hp, hi, hin⟩ hh hb hlen
    exact ⟨t, hrun.run, ht.hp, ht.bc⟩
  · obtain ⟨t, hrun, ht⟩ := exists_sampleRunFdxb_completed ⟨hp, hi, hin⟩ hh hb hlen
    exact ⟨t, hrun.run, ht.hp, ht.result⟩

/-- Settles O20: the run of the header, ten zeros and a `1`, and then the run of the frame. -/
theorem fdxbFrameReachesTheMailbox : Obligations.FdxbFrameReachesTheMailbox := by
  intro s f bits rest hp hi hh hb hbits hin
  obtain ⟨header, payload, rfl, hheader, hpayload⟩ := List.map_eq_append_iff.mp hbits
  have hlenH : header.length = 11 := by simpa [headerFdxb] using congrArg List.length hheader
  have hlenP : payload.length = 128 := by simpa [frameBits] using congrArg List.length hpayload
  have hlen : (header ++ payload).length = 139 := by rw [List.length_append, hlenH, hlenP]
  rw [sampleInputs_append, List.append_assoc] at hin
  obtain ⟨u, hrunH, huhp, -, hubc⟩ := exists_sampleRunFdxb_zeros_one (n := 10) ⟨hp, hi, hin⟩ hh hheader
  obtain ⟨t, hrunP, ht⟩ := exists_sampleRunFdxb_completed hrunH.sampling huhp (hubc.trans hb) hlenP
  have hrun := hrunH.append hrunP
  refine ⟨hlen, t, hlen ▸ hrun.run, frameBits_injective (ht.fo.trans hpayload), ht.frameValid, ht.result, ?_, ht.hp,
    ht.bc, ht.raw, hrun.sampling.inputs, hrun.identity, hrun.session⟩
  rw [List.map_append, List.getLast?_append, ht.endTime]
  rfl

end Sys2Proof.Machine
end

section
/-! PROOF. `SAMPLE` of an EM4100 build (41_acquisition_em4100.md R151 to R158), bit by bit and over the streams of a
header, a group and a frame (R162). -/

namespace Sys2Proof.Machine

/-! ### What one `SAMPLE` does in each phase -/

/-- `hp` after a line level before the header is confirmed (41_acquisition_em4100.md R152). -/
def huntEm (hp : BitVec 4) (d : Bool) : BitVec 4 := if d then hp + 1#4 else 0#4

/-- Before the header is confirmed a `SAMPLE` moves `hp` alone. -/
theorem State.sampleEm4100_of_hunt {s : State} (hi : s.irqEn = true) (hh : s.hp < 9#4) (d : Bool) :
    s.sampleEm4100 d = { s with hp := huntEm s.hp d }.answer .ok := by
  cases d <;> simp [State.sampleEm4100, huntEm, hi, hh]

/-- The count of a payload bit before the last. -/
theorem State.countEmBit_of_lt {s : State} (hb : s.bc.toNat < 54) :
    s.countEmBit = { s with bc := s.bc + 1#8 }.answer .ok :=
  if_neg (by omega)

section
variable {s : State} {d : Bool} (hi : s.irqEn = true) (hh : s.hp = 9#4)
include hi hh

theorem State.sampleEm4100_of_data : s.sampleEm4100 d = s.takeEmBit d := by
  simp [State.sampleEm4100, hi, hh]

theorem State.sampleEm4100_of_dataBit (hni : s.ni < 10#4) (hnp : s.np < 4#3) (hb : s.bc.toNat < 54) :
    s.sampleEm4100 d = { s.storeEmBit d with bc := s.bc + 1#8 }.answer .ok := by
  rw [State.sampleEm4100_of_data hi hh, State.takeEmBit, if_pos hni, if_pos hnp]
  exact State.countEmBit_of_lt hb

theorem State.sampleEm4100_of_parityAgrees (hni : s.ni < 10#4) (hnp : s.np = 4#3) (hb : s.bc.toNat < 54)
    (hd : d = xor4 s.grp) : s.sampleEm4100 d = { s.storeNibble with bc := s.bc + 1#8 }.answer .ok := by
  rw [State.sampleEm4100_of_data hi hh, State.takeEmBit, if_pos hni, if_neg (by simp [hnp]), if_neg (by simp [hd])]
  exact State.countEmBit_of_lt hb

theorem State.sampleEm4100_of_parityDisagrees (hni : s.ni < 10#4) (hnp : s.np = 4#3) (hd : d ≠ xor4 s.grp) :
    s.sampleEm4100 d = s.raise .nibbleParity := by
  rw [State.sampleEm4100_of_data hi hh, State.takeEmBit, if_pos hni, if_neg (by simp [hnp]), if_pos (by simpa using hd)]

/-- After the tenth group a bit is only counted (41_acquisition_em4100.md R157). -/
theorem State.sampleEm4100_of_tenGroups (hni : s.ni = 10#4) : s.sampleEm4100 d = s.countEmBit := by
  rw [State.sampleEm4100_of_data hi hh, State.takeEmBit, if_neg (by simp [hni])]

theorem State.sampleEm4100_of_trailingBit (hni : s.ni = 10#4) (hb : s.bc.toNat < 54) :
    s.sampleEm4100 d = { s with bc := s.bc + 1#8 }.answer .ok := by
  rw [State.sampleEm4100_of_tenGroups hi hh hni, State.countEmBit_of_lt hb]

theorem State.sampleEm4100_of_lastBit (hni : s.ni = 10#4) (hb : s.bc = 54#8) :
    s.sampleEm4100 d = s.completeEm.answer .frameComplete := by
  rw [State.sampleEm4100_of_tenGroups hi hh hni]
  exact if_pos (by simp [hb])

end

/-- Settles O22: `setBit` writes the one bit at `3 - np`. -/
theorem emDataBit : Obligations.EmDataBit := by
  intro s d hi hh hni hnp hb
  refine ⟨setBit s.grp (3 - s.np.toNat) d, ?_, fun k hk => ?_⟩
  · rw [exec_sampleEm4100, State.sampleEm4100_of_dataBit hi hh hni hnp hb]
    rfl
  · have hplace : k = 3 - s.np.toNat ↔ k + s.np.toNat = 3 := by bv_omega
    simp only [getLsbD_setBit _ _ _ hk, hplace]

/-- Settles O23: `setNibble` writes the one cell `ni`. -/
theorem emParityBitThatAgrees : Obligations.EmParityBitThatAgrees := by
  intro s d hi hh hni hnp hb hd
  refine ⟨setNibble s.nib s.ni.toNat s.grp, ?_, fun j => getElem_setNibble _ _ _ j.val j.isLt⟩
  rw [exec_sampleEm4100, State.sampleEm4100_of_parityAgrees hi hh hni hnp hb hd]
  rfl

/-- Settles O24: the step is the exception NibbleParity. -/
theorem emParityBitThatDisagrees : Obligations.EmParityBitThatDisagrees := by
  intro s d hi hh hni hnp hd
  rw [exec_sampleEm4100, State.sampleEm4100_of_parityDisagrees hi hh hni hnp hd]
  rfl

/-! ### The identifier -/

/-- In the place of nibble `j` of the identifier only nibble `j` shows (30_encoding.md R102). -/
theorem extractLsb'_nibblePlace (nib : Vector Nibble 10) (i j : Fin 10) :
    (nibblePlace nib i).extractLsb' (4 * (9 - j.val)) 4 = if i = j then nib[j] else 0#4 := by
  refine BitVec.eq_of_getLsbD_eq fun k hk => ?_
  simp only [nibblePlace, BitVec.getLsbD_extractLsb', BitVec.getLsbD_shiftLeft, BitVec.getLsbD_setWidth, hk,
    decide_true, Bool.true_and]
  obtain hij | rfl | hij := lt_trichotomy i j
  · have hlow : 4 * (9 - j.val) + k < 4 * (9 - i.val) := by omega
    simp [hlow, hij.ne]
  · have h40 : 4 * (9 - i.val) + k < 40 := by omega
    have hk40 : k < 40 := by omega
    simp [h40, hk40]
  · have hhigh : 4 ≤ 4 * (9 - j.val) + k - 4 * (9 - i.val) := by omega
    simp [hij.ne', BitVec.getLsbD_of_ge _ _ hhigh]

theorem extractLsb'_emIdOf (nib : Vector Nibble 10) (j : Fin 10) :
    (emIdOf nib).extractLsb' (4 * (9 - j.val)) 4 = nib[j] := by
  simp only [emIdOf, BitVec.extractLsb'_or, extractLsb'_nibblePlace]
  fin_cases j <;> simp

/-- Settles O26: the completing step, and the nibbles at their places in the identifier. -/
theorem emCompletion : Obligations.EmCompletion := by
  intro s d hi hh hni hb
  refine ⟨emIdOf s.nib, ?_, extractLsb'_emIdOf s.nib⟩
  rw [exec_sampleEm4100, State.sampleEm4100_of_lastBit hi hh hni hb]
  rfl

/-! ### When a frame completes -/

theorem State.countEmBit_completes_iff (s : State) :
    s.countEmBit.result = some .frameComplete ↔ s.bc.toNat = 54 := by
  obtain ⟨hb, e⟩ | ⟨hb, e⟩ := s.countEmBit_cases
  all_goals simp [e, hb]

/-- The cursor reaches 54 in the trailing bits alone (41_acquisition_em4100.md R160). -/
theorem DecoderInvEm.ni_of_lastBit {s : State} (h : DecoderInvEm s) (hh : s.hp = 9#4) (hb : s.bc = 54#8) :
    s.ni = 10#4 := by
  obtain ⟨-, -, hdata⟩ := h
  obtain ⟨hle, hgroup, -⟩ := hdata (by simp [hh])
  have hnot : ¬ s.ni.toNat < 10 := fun hni => by
    obtain ⟨hnp, hbc⟩ := hgroup hni
    simp only [hb, BitVec.toNat_ofNat] at hbc
    omega
  bv_omega

/-- Settles O27: only the count of a payload bit answers so, at `bc = 54`, where the invariant has ten groups stored. -/
theorem emFrameCompleteExactlyOnTheLastBit : Obligations.EmFrameCompleteExactlyOnTheLastBit := by
  intro s t d hp hinv h
  cases h
  refine ⟨fun hr => ?_, fun ⟨hi, hh, hb⟩ => ?_⟩
  · obtain ⟨hle, -, -⟩ := hinv.em4100 hp
    have hlast (hi : s.irqEn = true) (hh : 9#4 ≤ s.hp) (hb : s.bc.toNat = 54) : AtLastBitEm s :=
      ⟨hi, by bv_omega, by bv_omega⟩
    obtain ⟨_, e⟩ | ⟨_, _, _, e⟩ | ⟨_, _, _, e⟩ | ⟨hi, hh, _, _, e⟩ | ⟨hi, hh, _, _, _, e⟩ | ⟨_, _, _, _, _, e⟩ |
      ⟨hi, hh, _, e⟩ := s.sampleEm4100_cases d
    all_goals rw [e] at hr
    case inr.inr.inr.inl => exact hlast hi hh ((s.storeEmBit d).countEmBit_completes_iff.mp hr)
    case inr.inr.inr.inr.inl => exact hlast hi hh (s.storeNibble.countEmBit_completes_iff.mp hr)
    case inr.inr.inr.inr.inr.inr => exact hlast hi hh (s.countEmBit_completes_iff.mp hr)
    -- no other case answers `FRAME_COMPLETE`
    all_goals cases hr
  · rw [State.sampleEm4100_of_lastBit hi hh (DecoderInvEm.ni_of_lastBit (hinv.em4100 hp) hh hb) hb]
    rfl

/-! ### Runs of `SAMPLE` steps in an EM4100 build -/

/-- An EM4100 build with the interrupt on, to which `inputs` is presented. -/
structure SamplingEm (inputs : List PortInput) (s : State) : Prop where
  protocol : s.protocol = .em4100
  irqEn : s.irqEn = true
  inputs : s.inputs = inputs

/-- `t` is the state after the `SAMPLE`s of `bits` from `s`, before `rest`; what no `SAMPLE` of the build writes
stands. -/
structure SampleRunEm (bits : List (Bool × Ticks)) (rest : List PortInput) (s t : State) : Prop where
  run : runSteps bits.length s = .next t
  sampling : SamplingEm rest t
  raw : t.raw = s.raw
  mailbox : SameMailbox s t
  session : SameSession s t

/-- The run of one bit is one `SAMPLE`. -/
theorem sampleRunEm_singleton {s : State} {b : Bool × Ticks} {rest : List PortInput}
    (hs : SamplingEm (sampleInputs [b] ++ rest) s) :
    SampleRunEm [b] rest s ((s.atSample b rest).sampleEm4100 b.1) := by
  obtain ⟨_, _, _, _, _, _, _, _, _, _, e⟩ := (s.atSample b rest).sampleEm4100_writes b.1
  refine ⟨runSteps_sampleEm4100 (bs := []) 0 hs.protocol hs.inputs, ?_, ?_, ?_, ?_⟩
  all_goals rw [e]
  · exact ⟨hs.protocol, hs.irqEn, rfl⟩
  · rfl
  · exact ⟨rfl, rfl⟩
  · exact ⟨rfl, rfl, rfl, rfl, rfl⟩

/-- Two runs, one after the other. -/
theorem SampleRunEm.append {before after : List (Bool × Ticks)} {inputs rest : List PortInput} {s u t : State}
    (h₁ : SampleRunEm before inputs s u) (h₂ : SampleRunEm after rest u t) :
    SampleRunEm (before ++ after) rest s t where
  run := by rw [List.length_append, runSteps_add _ h₁.run, h₂.run]
  sampling := h₂.sampling
  raw := h₂.raw.trans h₁.raw
  mailbox := by simpa only [SameMailbox, h₁.mailbox] using h₂.mailbox
  session := by simpa only [SameSession, h₁.session] using h₂.session

/-- The induction over a stream, once: what holds of the bits to come and the state, and every `SAMPLE` keeps, holds at
the end. -/
theorem exists_sampleRunEm {P : List (Bool × Ticks) → State → Prop}
    (hsample : ∀ (b : Bool × Ticks) (later : List (Bool × Ticks)) (inputs : List PortInput) (u : State),
      u.irqEn = true → P (b :: later) u → P later ((u.atSample b inputs).sampleEm4100 b.1))
    {bits : List (Bool × Ticks)} {rest : List PortInput} {s : State}
    (hs : SamplingEm (sampleInputs bits ++ rest) s) (h : P bits s) :
    ∃ t, SampleRunEm bits rest s t ∧ P [] t := by
  induction bits generalizing s with
  | nil => exact ⟨s, ⟨rfl, hs, rfl, ⟨rfl, rfl⟩, ⟨rfl, rfl, rfl, rfl, rfl⟩⟩, h⟩
  | cons b later ih =>
    have hone := sampleRunEm_singleton (b := b) (rest := sampleInputs later ++ rest) hs
    obtain ⟨t, hrun, ht⟩ := ih hone.sampling (hsample b later _ s hs.irqEn h)
    exact ⟨t, hone.append hrun, ht⟩

/-- The identity and the end time are the same: no frame has completed. -/
abbrev SameLastFrame (s t : State) : Prop := SameIdentity s t ∧ t.endTime = s.endTime

theorem SameLastFrame.refl (s : State) : SameLastFrame s s := ⟨⟨rfl, rfl, rfl⟩, rfl⟩

/-! ### The hunt over a stream -/

/-- `t` is `s` but for `hp`, the ports and the answer, so far as a `SAMPLE` of the build writes it. -/
structure HuntedEm (s t : State) : Prop where
  bc : t.bc = s.bc
  np : t.np = s.np
  ni : t.ni = s.ni
  grp : t.grp = s.grp
  nib : t.nib = s.nib
  last : SameLastFrame s t

theorem HuntedEm.refl (s : State) : HuntedEm s s := ⟨rfl, rfl, rfl, rfl, rfl, .refl s⟩

/-- The next `SAMPLE` of the hunt. -/
theorem HuntedEm.sampleEm4100 {s u : State} (h : HuntedEm s u) (hi : u.irqEn = true) (hh : u.hp < 9#4)
    (b : Bool × Ticks) (inputs : List PortInput) :
    ((u.atSample b inputs).sampleEm4100 b.1).hp = huntEm u.hp b.1 ∧
      HuntedEm s ((u.atSample b inputs).sampleEm4100 b.1) := by
  rw [State.sampleEm4100_of_hunt (s := u.atSample b inputs) hi hh]
  exact ⟨rfl, h.bc, h.np, h.ni, h.grp, h.nib, h.last⟩

/-- Nine `1`s from `hp = 0` confirm the header. -/
theorem exists_sampleRunEm_header {s : State} {bits : List (Bool × Ticks)} {rest : List PortInput}
    (hs : SamplingEm (sampleInputs bits ++ rest) s) (hh : s.hp = 0#4) (hbits : bits.map Prod.fst = headerEm) :
    ∃ t, SampleRunEm bits rest s t ∧ t.hp = 9#4 ∧ HuntedEm s t := by
  obtain ⟨t, hrun, hhp, -, ht⟩ :
      ∃ t, SampleRunEm bits rest s t ∧ t.hp.toNat + 0 = 9 ∧ (∀ b ∈ [], b = true) ∧ HuntedEm s t := by
    have hlen : bits.length = 9 := by simpa [headerEm] using congrArg List.length hbits
    refine exists_sampleRunEm (P := fun later u => u.hp.toNat + later.length = 9 ∧
      (∀ b ∈ later.map Prod.fst, b = true) ∧ HuntedEm s u) ?_ hs ⟨by simp [hh, hlen], ?_, .refl s⟩
    · rintro b later inputs u hi ⟨hcount, hones, hu⟩
      simp only [List.map_cons, List.forall_mem_cons, List.length_cons] at hcount hones
      obtain ⟨hone, hones⟩ := hones
      obtain ⟨hnext, hu⟩ := hu.sampleEm4100 hi (by bv_omega) b inputs
      refine ⟨?_, hones, hu⟩
      rw [hnext, hone, huntEm, if_pos rfl]
      bv_omega
    · rw [hbits, headerEm]
      exact fun b hb => List.eq_of_mem_replicate hb
  exact ⟨t, hrun, BitVec.eq_of_toNat_eq hhp, ht⟩

/-- Over a stream without nine `1`s in a row the hunt goes on: `hp` counts the `1`s just before. -/
theorem exists_sampleRunEm_hunted {s : State} {bits : List (Bool × Ticks)} {rest : List PortInput}
    (hs : SamplingEm (sampleInputs bits ++ rest) s) (hh : s.hp = 0#4) (hno : ¬ headerEm <:+: bits.map Prod.fst) :
    ∃ t, SampleRunEm bits rest s t ∧ t.hp.toNat ≤ 8 ∧ HuntedEm s t := by
  obtain ⟨t, hrun, hhp, -, ht⟩ : ∃ t, SampleRunEm bits rest s t ∧ t.hp.toNat ≤ 8 ∧
      ¬ headerEm <:+: List.replicate t.hp.toNat true ++ [] ∧ HuntedEm s t := by
    refine exists_sampleRunEm (P := fun later u => u.hp.toNat ≤ 8 ∧
      ¬ headerEm <:+: List.replicate u.hp.toNat true ++ later.map Prod.fst ∧ HuntedEm s u) ?_ hs
      ⟨by simp [hh], by simpa [hh] using hno, .refl s⟩
    rintro ⟨d, time⟩ later inputs u hi ⟨hle, hno, hu⟩
    obtain ⟨hnext, hu⟩ := hu.sampleEm4100 hi (by bv_omega) (d, time) inputs
    rw [hnext]
    cases d with
    | false =>
      refine ⟨by simp [huntEm], fun hheader => hno (hheader.trans ?_), hu⟩
      exact ⟨List.replicate u.hp.toNat true ++ [false], [], by simp [huntEm]⟩
    | true =>
      have hsucc : (huntEm u.hp true).toNat = u.hp.toNat + 1 := by
        rw [huntEm, if_pos rfl]
        bv_omega
      have hmore : List.replicate u.hp.toNat true ++ true :: later.map Prod.fst =
          List.replicate (u.hp.toNat + 1) true ++ later.map Prod.fst := by
        rw [List.replicate_succ', List.append_assoc, List.singleton_append]
      rw [List.map_cons, hmore] at hno
      rw [hsucc]
      -- the ninth `1` would make the `1`s just before a header
      have hne : u.hp.toNat ≠ 8 := fun h8 => hno (h8 ▸ List.infix_append' [] headerEm _)
      exact ⟨by omega, hno, hu⟩
  exact ⟨t, hrun, hhp, ht⟩

/-- Settles O30: each beginning of the stream holds no header either, so after it the hunt goes on. -/
theorem emNoHeaderNoAcquisition : Obligations.EmNoHeaderNoAcquisition := by
  intro s bits rest hp hi hh hb hno hin k hk
  rw [← List.take_append_drop k bits] at hno hin
  rw [sampleInputs_append, List.append_assoc] at hin
  rw [List.map_append] at hno
  obtain ⟨t, hrun, hhp, ht⟩ := exists_sampleRunEm_hunted ⟨hp, hi, hin⟩ hh
    fun hheader => hno (hheader.trans (List.prefix_append _ _).isInfix)
  have hsteps := hrun.run
  rw [List.length_take_of_le hk] at hsteps
  obtain ⟨hidentity, hend⟩ := ht.last
  exact ⟨t, hsteps, ht.bc.trans hb, hhp, ht.nib, hidentity, hend⟩

/-- Settles O21: the two ways `huntEm` goes, and the run of the header with the data bit after it. -/
theorem emHuntPhase : Obligations.EmHuntPhase := by
  refine ⟨fun s hi hlt => ?_, fun s bits rest hp hi hcleared hbits hin => ?_⟩
  · rw [exec_sampleEm4100, exec_sampleEm4100, State.sampleEm4100_of_hunt hi hlt, State.sampleEm4100_of_hunt hi hlt]
    exact ⟨rfl, rfl⟩
  · obtain ⟨hh, hbc, hnp, hni, hgrp, -⟩ := hcleared
    obtain ⟨header, tenth, rfl, hheader, hone⟩ := List.map_eq_append_iff.mp hbits
    obtain ⟨b, rfl, hb⟩ := List.map_eq_singleton_iff.mp hone
    rw [sampleInputs_append, List.append_assoc] at hin
    obtain ⟨u, hrun, huhp, hu⟩ := exists_sampleRunEm_header ⟨hp, hi, hin⟩ hh hheader
    have hubc := hu.bc.trans hbc
    have hunp := hu.np.trans hnp
    have huni := hu.ni.trans hni
    refine ⟨_, (hrun.append (sampleRunEm_singleton hrun.sampling)).run, ?_⟩
    rw [State.sampleEm4100_of_dataBit (s := u.atSample b rest) hrun.sampling.irqEn huhp (by simp [State.atSample, huni])
      (by simp [State.atSample, hunp]) (by simp [State.atSample, hubc])]
    simp [State.storeEmBit, State.atSample, huhp, hubc, hunp, huni, hu.grp.trans hgrp, hu.nib, hb, setBit]

/-! ### A group over a stream -/

/-- The next bit is the first of a group, and the group ends before the frame does. -/
structure AtGroupEm (s : State) : Prop where
  hp : s.hp = 9#4
  ni : s.ni < 10#4
  np : s.np = 0#3
  bc : s.bc.toNat < 50

/-- `t` is where the group of `v` that begins in `s` stands after `np` data bits. -/
structure InGroupEm (s : State) (v : Nibble) (t : State) : Prop where
  hp : t.hp = 9#4
  ni : t.ni = s.ni
  np : t.np.toNat ≤ 4
  bc : t.bc.toNat = s.bc.toNat + t.np.toNat
  grp : ∀ k < 4, 4 ≤ k + t.np.toNat → t.grp.getLsbD k = v.getLsbD k
  nib : t.nib = s.nib
  last : SameLastFrame s t

theorem AtGroupEm.inGroupEm {s : State} (h : AtGroupEm s) (v : Nibble) : InGroupEm s v s where
  hp := h.hp
  ni := rfl
  np := by simp [h.np]
  bc := by simp [h.np]
  grp k hk hle := by
    simp only [h.np, BitVec.toNat_ofNat] at hle
    omega
  nib := rfl
  last := .refl s

/-- The next data bit of the group. -/
theorem InGroupEm.sampleEm4100 {s u : State} {v : Nibble} (h : InGroupEm s v u) (hs : AtGroupEm s)
    (hi : u.irqEn = true) (hnp : u.np.toNat < 4) (b : Bool × Ticks) (hb : b.1 = v.getLsbD (3 - u.np.toNat))
    (inputs : List PortInput) :
    ((u.atSample b inputs).sampleEm4100 b.1).np.toNat = u.np.toNat + 1 ∧
      InGroupEm s v ((u.atSample b inputs).sampleEm4100 b.1) := by
  have hbc := h.bc
  have hs50 := hs.bc
  have hnp' : (u.np + 1#3).toNat = u.np.toNat + 1 := by bv_omega
  rw [State.sampleEm4100_of_dataBit (s := u.atSample b inputs) hi h.hp (h.ni ▸ hs.ni) hnp
    (by simp only [State.atSample]; omega)]
  refine ⟨hnp', h.hp, h.ni, hnp'.trans_le hnp, ?_, fun k hk hle => ?_, h.nib, h.last⟩
  · simp only [State.answer_bc, State.answer_np, State.storeEmBit, State.atSample]
    bv_omega
  · simp only [State.answer_np, State.answer_grp, State.storeEmBit, State.atSample, hnp'] at hle ⊢
    rw [getLsbD_setBit _ _ _ hk]
    split
    case isTrue hplace => rw [hb, hplace]
    case isFalse hplace => exact h.grp k hk (by omega)

/-- The four data bits of a group. -/
theorem exists_sampleRunEm_dataBits {s : State} {v : Nibble} {bits : List (Bool × Ticks)} {rest : List PortInput}
    (hs : SamplingEm (sampleInputs bits ++ rest) s) (hgroup : AtGroupEm s)
    (hbits : bits.map Prod.fst = (nib5 v).dropLast) :
    ∃ t, SampleRunEm bits rest s t ∧ t.np = 4#3 ∧ t.grp = v ∧ InGroupEm s v t := by
  have hdata : (nib5 v).dropLast = (List.range 4).map fun k => v.getLsbD (3 - k) := rfl
  obtain ⟨t, hrun, hnone, ht⟩ : ∃ t, SampleRunEm bits rest s t ∧
      [] = (nib5 v).dropLast.drop t.np.toNat ∧ InGroupEm s v t := by
    refine exists_sampleRunEm (P := fun later u => later.map Prod.fst = (nib5 v).dropLast.drop u.np.toNat ∧
      InGroupEm s v u) ?_ hs ⟨by simpa [hgroup.np] using hbits, hgroup.inGroupEm v⟩
    rintro b later inputs u hi ⟨hlater, hu⟩
    have hlt : u.np.toNat < (nib5 v).dropLast.length := by
      refine Nat.lt_of_not_le fun hle => ?_
      rw [List.drop_eq_nil_of_le hle] at hlater
      cases hlater
    rw [List.map_cons, List.drop_eq_getElem_cons hlt, List.cons.injEq] at hlater
    obtain ⟨hb, hlater⟩ := hlater
    obtain ⟨hnp, hu⟩ := hu.sampleEm4100 hgroup hi hlt b (by simpa [hdata] using hb) inputs
    exact ⟨hnp ▸ hlater, hu⟩
  have hnp : t.np.toNat = 4 := le_antisymm ht.np (List.drop_eq_nil_iff.mp hnone.symm)
  exact ⟨t, hrun, BitVec.eq_of_toNat_eq hnp, BitVec.eq_of_getLsbD_eq fun k hk => ht.grp k hk (by omega), ht⟩

/-- The five bits of a group: the data bits, and then the `SAMPLE` of the parity bit from where they end. -/
theorem exists_sampleRunEm_parityBit {s : State} {v : Nibble} {parity : Bool} {bits : List (Bool × Ticks)}
    {rest : List PortInput} (hs : SamplingEm (sampleInputs bits ++ rest) s) (hgroup : AtGroupEm s)
    (hbits : bits.map Prod.fst = (nib5 v).dropLast ++ [parity]) :
    ∃ u, SampleRunEm bits rest s (u.sampleEm4100 parity) ∧ u.irqEn = true ∧ u.raw = s.raw ∧ u.np = 4#3 ∧ u.grp = v ∧
      InGroupEm s v u := by
  obtain ⟨data, last, rfl, hdata, hlast⟩ := List.map_eq_append_iff.mp hbits
  obtain ⟨b, rfl, rfl⟩ := List.map_eq_singleton_iff.mp hlast
  rw [sampleInputs_append, List.append_assoc] at hs
  obtain ⟨u, hrun, hnp, hgrp, hu⟩ := exists_sampleRunEm_dataBits hs hgroup hdata
  exact ⟨u.atSample b rest, hrun.append (sampleRunEm_singleton hrun.sampling), hrun.sampling.irqEn, hrun.raw, hnp, hgrp,
    hu.hp, hu.ni, hu.np, hu.bc, hu.grp, hu.nib, hu.last⟩

/-- A group and its parity bit have stored `v` in the next slot. -/
structure StoredGroupEm (s : State) (v : Nibble) (t : State) : Prop where
  result : t.result = some .ok
  hp : t.hp = 9#4
  ni : t.ni = s.ni + 1#4
  np : t.np = 0#3
  bc : t.bc.toNat = s.bc.toNat + 5
  nib : t.nib = setNibble s.nib s.ni.toNat v

/-- A group whose parity agrees. -/
theorem exists_sampleRunEm_group {s : State} {v : Nibble} {bits : List (Bool × Ticks)} {rest : List PortInput}
    (hs : SamplingEm (sampleInputs bits ++ rest) s) (hgroup : AtGroupEm s) (hbits : bits.map Prod.fst = nib5 v) :
    ∃ t, SampleRunEm bits rest s t ∧ StoredGroupEm s v t := by
  obtain ⟨u, hrun, hi, -, hnp, hgrp, hu⟩ := exists_sampleRunEm_parityBit (v := v) (parity := xor4 v) hs hgroup hbits
  have hbc : u.bc.toNat = s.bc.toNat + 4 := by rw [hu.bc, hnp]; rfl
  have hs50 := hgroup.bc
  refine ⟨_, hrun, ?_⟩
  rw [State.sampleEm4100_of_parityAgrees hi hu.hp (hu.ni ▸ hgroup.ni) hnp (by omega) (by rw [hgrp])]
  refine ⟨rfl, hu.hp, congrArg (· + 1#4) hu.ni, rfl, ?_, ?_⟩
  · simp only [State.answer_bc]
    bv_omega
  · simp [State.storeNibble, hu.nib, hu.ni, hgrp]

/-- A group whose parity bit is flipped. -/
theorem exists_sampleRunEm_badGroup {s : State} {v : Nibble} {bits : List (Bool × Ticks)} {rest : List PortInput}
    (hs : SamplingEm (sampleInputs bits ++ rest) s) (hgroup : AtGroupEm s) (hraw : s.raw = 0#128)
    (hbits : bits.map Prod.fst = (nib5 v).dropLast ++ [!xor4 v]) :
    ∃ t, SampleRunEm bits rest s t ∧ t.result = some .checksumRetry ∧ DecoderCleared t ∧ SameLastFrame s t := by
  obtain ⟨u, hrun, hi, huraw, hnp, hgrp, hu⟩ := exists_sampleRunEm_parityBit hs hgroup hbits
  refine ⟨_, hrun, ?_⟩
  rw [State.sampleEm4100_of_parityDisagrees hi hu.hp (hu.ni ▸ hgroup.ni) hnp (by simp [hgrp])]
  exact ⟨rfl, ⟨rfl, rfl, rfl, rfl, rfl, huraw.trans hraw, getElem_zeroNibbles_fin⟩, hu.last⟩

/-- In a state that meets the invariant a group starts at payload bit `5 ni` (41_acquisition_em4100.md R160). -/
theorem DecoderInvEm.atGroupEm {s : State} (h : DecoderInvEm s) (hh : s.hp = 9#4) (hni : s.ni < 10#4)
    (hnp : s.np = 0#3) : AtGroupEm s := by
  obtain ⟨-, -, hdata⟩ := h
  obtain ⟨-, hgroup, -⟩ := hdata (by simp [hh])
  obtain ⟨-, hbc⟩ := hgroup hni
  simp only [hnp, BitVec.toNat_ofNat] at hbc
  exact ⟨hh, hni, hnp, by bv_omega⟩

/-- Settles O28: the four data bits and then the parity bit, either way. -/
theorem emNibbleParity : Obligations.EmNibbleParity := by
  intro s v bits rest hp hi hinv hh hni hnp hin
  have hgroup := DecoderInvEm.atGroupEm (hinv.em4100 hp) hh hni hnp
  refine ⟨fun hbits => ?_, fun hbits => ?_⟩
  · have hlen : bits.length = 5 := by simpa [nib5] using congrArg List.length hbits
    obtain ⟨t, hrun, ht⟩ := exists_sampleRunEm_group ⟨hp, hi, hin⟩ hgroup hbits
    refine ⟨t, hlen ▸ hrun.run, ht.result, ht.ni, ht.np, ht.hp, fun j => ?_⟩
    rw [ht.nib]
    exact getElem_setNibble _ _ _ j.val j.isLt
  · have hlen : bits.length = 5 := by simpa [nib5] using congrArg List.length hbits
    obtain ⟨hraw, -⟩ := hinv.build.2 hp
    obtain ⟨t, hrun, hresult, hcleared, hidentity, hend⟩ :=
      exists_sampleRunEm_badGroup ⟨hp, hi, hin⟩ hgroup hraw hbits
    exact ⟨t, hlen ▸ hrun.run, hresult, hcleared, hidentity, hend⟩

/-! ### The trailing bits over a stream -/

/-- A frame has completed with the nibbles `nib`, in the last of `bits`. -/
structure CompletedEm (nib : Vector Nibble 10) (bits : List (Bool × Ticks)) (t : State) : Prop where
  result : t.result = some .frameComplete
  emId : t.emId = emIdOf nib
  tagValid : t.tagValid = true
  endTime : (bits.map Prod.snd).getLast? = some t.endTime
  cleared : t.raw = 0#128 → DecoderCleared t

/-- Up to four trailing bits are only counted. -/
theorem exists_sampleRunEm_trailing {s : State} {bits : List (Bool × Ticks)} {rest : List PortInput}
    (hs : SamplingEm (sampleInputs bits ++ rest) s) (hh : s.hp = 9#4) (hni : s.ni = 10#4)
    (hb : s.bc.toNat + bits.length ≤ 54) :
    ∃ t, SampleRunEm bits rest s t ∧ t.hp = 9#4 ∧ t.ni = 10#4 ∧ t.bc.toNat = s.bc.toNat + bits.length ∧
      t.nib = s.nib := by
  refine exists_sampleRunEm (P := fun later u => u.hp = 9#4 ∧ u.ni = 10#4 ∧
    u.bc.toNat + later.length = s.bc.toNat + bits.length ∧ u.nib = s.nib) ?_ hs ⟨hh, hni, rfl, rfl⟩
  rintro b later inputs u hi ⟨huhp, huni, hubc, hunib⟩
  rw [List.length_cons] at hubc
  rw [State.sampleEm4100_of_trailingBit (s := u.atSample b inputs) hi huhp huni
    (by simp only [State.atSample]; omega)]
  refine ⟨huhp, huni, ?_, hunib⟩
  simp only [State.answer_bc, State.atSample]
  bv_omega

/-- Any five trailing bits complete the frame. -/
theorem exists_sampleRunEm_completed {s : State} {bits : List (Bool × Ticks)} {rest : List PortInput}
    (hs : SamplingEm (sampleInputs bits ++ rest) s) (hh : s.hp = 9#4) (hni : s.ni = 10#4) (hb : s.bc = 50#8)
    (hlen : bits.length = 5) : ∃ t, SampleRunEm bits rest s t ∧ CompletedEm s.nib bits t := by
  obtain rfl | ⟨four, b, rfl⟩ := List.eq_nil_or_concat' bits
  · cases hlen
  have hlen4 : four.length = 4 := by simpa using hlen
  rw [sampleInputs_append, List.append_assoc] at hs
  obtain ⟨u, hrun, huhp, huni, hubc, hunib⟩ := exists_sampleRunEm_trailing hs hh hni (by simp [hb, hlen4])
  have hlast : u.bc = 54#8 := BitVec.eq_of_toNat_eq (by rw [hubc, hb, hlen4]; rfl)
  refine ⟨_, hrun.append (sampleRunEm_singleton hrun.sampling), ?_⟩
  rw [State.sampleEm4100_of_lastBit (s := u.atSample b rest) hrun.sampling.irqEn huhp huni hlast]
  refine ⟨rfl, congrArg emIdOf hunib, rfl, ?_, fun hraw => ⟨rfl, rfl, rfl, rfl, rfl, hraw, getElem_zeroNibbles_fin⟩⟩
  rw [List.map_append, List.map_singleton, List.getLast?_concat]
  rfl

/-- Settles O25: the counting step, and the run of five trailing bits. -/
theorem emTrailingBits : Obligations.EmTrailingBits := by
  refine ⟨fun s d hi hh hni hb => ?_, fun s bits rest hp hi hh hni hb hlen hin => ?_⟩
  · rw [exec_sampleEm4100, State.sampleEm4100_of_trailingBit hi hh hni hb]
    rfl
  · obtain ⟨t, hrun, ht⟩ := exists_sampleRunEm_completed ⟨hp, hi, hin⟩ hh hni hb hlen
    exact ⟨t, hlen ▸ hrun.run, ht.result, ht.emId⟩

/-! ### From the header to the identifier -/

/-- The header is confirmed, and the groups since have stored `taken`. -/
structure TakenEm (taken : List Nibble) (t : State) : Prop where
  hp : t.hp = 9#4
  ni : t.ni.toNat = taken.length
  np : t.np = 0#3
  bc : t.bc.toNat = 5 * taken.length
  nib : t.nib.toList.take taken.length = taken

theorem TakenEm.atGroupEm {s : State} {taken : List Nibble} (h : TakenEm taken s) (hlen : taken.length < 10) :
    AtGroupEm s where
  hp := h.hp
  ni := h.ni.trans_lt hlen
  np := h.np
  bc := by
    rw [h.bc]
    omega

/-- Writing cell `n` adds its nibble to the cells before it. -/
theorem take_toList_setNibble (nib : Vector Nibble 10) {n : Nat} (hn : n < 10) (v : Nibble) :
    (setNibble nib n v).toList.take (n + 1) = nib.toList.take n ++ [v] := by
  simp [setNibble, List.take_add_one, List.take_set, hn, List.set_eq_of_length_le]

/-- One more group stored. -/
theorem TakenEm.storedGroupEm {s t : State} {taken : List Nibble} {v : Nibble} (h : TakenEm taken s)
    (hlen : taken.length < 10) (hv : StoredGroupEm s v t) : TakenEm (taken ++ [v]) t where
  hp := hv.hp
  ni := by
    have hni := h.ni
    rw [hv.ni, List.length_append, List.length_singleton]
    bv_omega
  np := hv.np
  bc := by
    rw [hv.bc, h.bc, List.length_append, List.length_singleton]
    omega
  nib := by rw [hv.nib, h.ni, List.length_append, List.length_singleton, take_toList_setNibble _ hlen, h.nib]

/-- Groups up to the tenth are stored one after the other. -/
theorem exists_sampleRunEm_groups {s : State} {taken groups : List Nibble} {bits : List (Bool × Ticks)}
    {rest : List PortInput} (hs : SamplingEm (sampleInputs bits ++ rest) s) (h : TakenEm taken s)
    (hlen : taken.length + groups.length ≤ 10) (hbits : bits.map Prod.fst = groups.flatMap nib5) :
    ∃ t, SampleRunEm bits rest s t ∧ TakenEm (taken ++ groups) t := by
  induction groups generalizing s taken bits with
  | nil =>
    obtain rfl : bits = [] := List.map_eq_nil_iff.mp hbits
    exact ⟨s, ⟨rfl, hs, rfl, ⟨rfl, rfl⟩, ⟨rfl, rfl, rfl, rfl, rfl⟩⟩, by simpa using h⟩
  | cons v groups ih =>
    obtain ⟨first, later, rfl, hfirst, hlater⟩ := List.map_eq_append_iff.mp hbits
    rw [sampleInputs_append, List.append_assoc] at hs
    rw [List.length_cons] at hlen
    have hlt : taken.length < 10 := by omega
    obtain ⟨u, hrun, hu⟩ := exists_sampleRunEm_group hs (h.atGroupEm hlt) hfirst
    obtain ⟨t, hrun', ht⟩ := ih hrun.sampling (h.storedGroupEm hlt hu) (by simp; omega) hlater
    exact ⟨t, hrun.append hrun', by simpa using ht⟩

/-- The header is confirmed, and no group has begun. -/
theorem HuntedEm.takenEm_nil {s t : State} (h : HuntedEm s t) (hs : DecoderCleared s) (hh : t.hp = 9#4) :
    TakenEm [] t := by
  obtain ⟨-, hbc, hnp, hni, -⟩ := hs
  exact ⟨hh, by simp [h.ni, hni], h.np.trans hnp, by simp [h.bc, hbc], rfl⟩

/-- Ten groups fill the nibbles. -/
theorem TakenEm.nib_eq {t : State} {nib : Vector Nibble 10} (h : TakenEm nib.toList t) : t.nib = nib := by
  have hnib := h.nib
  rw [Vector.length_toList, List.take_of_length_le (by simp)] at hnib
  exact Vector.toList_inj.mp hnib

/-- Settles O29: the runs of the header, of the ten groups and of the trailing bits, one after the other. -/
theorem emFrameReachesTheIdentifier : Obligations.EmFrameReachesTheIdentifier := by
  intro s nib tail bits rest hp hi hcleared htail hbits hin
  obtain ⟨front, trailing, rfl, hfront, htrailing⟩ := List.map_eq_append_iff.mp hbits
  obtain ⟨header, groups, rfl, hheader, hgroups⟩ := List.map_eq_append_iff.mp hfront
  have hlenT : trailing.length = 5 := by simpa [htail] using congrArg List.length htrailing
  have hlen : ((header ++ groups) ++ trailing).length = 64 := by
    simpa [headerEm, groupBits, nib5, htail] using congrArg List.length hbits
  rw [sampleInputs_append, sampleInputs_append, List.append_assoc, List.append_assoc] at hin
  have ⟨hh, _, _, _, _, hraw, _⟩ := hcleared
  obtain ⟨u, hrunH, huhp, hu⟩ := exists_sampleRunEm_header ⟨hp, hi, hin⟩ hh hheader
  obtain ⟨w, hrunG, hw⟩ := exists_sampleRunEm_groups (taken := []) (groups := nib.toList) hrunH.sampling
    (hu.takenEm_nil hcleared huhp) (by simp) hgroups
  rw [List.nil_append] at hw
  obtain ⟨t, hrunT, ht⟩ := exists_sampleRunEm_completed hrunG.sampling hw.hp
    (BitVec.eq_of_toNat_eq (by simp [hw.ni])) (BitVec.eq_of_toNat_eq (by simp [hw.bc])) hlenT
  have hrun := (hrunH.append hrunG).append hrunT
  refine ⟨hlen, t, hlen ▸ hrun.run, ht.result, ht.tagValid, ?_, ?_, ht.cleared (hrun.raw.trans hraw),
    hrun.sampling.inputs, hrun.mailbox, hrun.session⟩
  · rw [ht.emId, hw.nib_eq]
    exact extractLsb'_emIdOf nib
  · rw [List.map_append, List.getLast?_append, ht.endTime]
    rfl

end Sys2Proof.Machine
end

section
/-! PROOF. The checksum (42_crc16.md R184): its linearity, the residue, the leading zeros, and that a changed byte
changes it. -/

namespace Sys2Proof.Machine

/-! ### Linearity -/

/-- A shift moves each bit one place down, and adds the polynomial where the bit that left was 1. -/
theorem getLsbD_crcShift (poly c : Crc) (i : Nat) :
    (crcShift poly c).getLsbD i = (c.getLsbD (i + 1) ^^ (c.getLsbD 0 && poly.getLsbD i)) := by
  cases hout : c.getLsbD 0
  · rw [crcShift, hout]
    simp [Nat.add_comm]
  · rw [crcShift, hout]
    simp [Nat.add_comm]

theorem crcShift_xor (poly c d : Crc) : crcShift poly (c ^^^ d) = crcShift poly c ^^^ crcShift poly d := by
  refine BitVec.eq_of_getLsbD_eq fun i _ => ?_
  simp only [BitVec.getLsbD_xor, getLsbD_crcShift, Bool.and_xor_distrib_right, Bool.xor_assoc, Bool.xor_left_comm]

theorem crcShifts_xor (poly : Crc) (n : Nat) (c d : Crc) :
    crcShifts poly n (c ^^^ d) = crcShifts poly n c ^^^ crcShifts poly n d := by
  induction n generalizing c d with
  | zero => rfl
  | succ n ih => simp only [crcShifts, crcShift_xor, ih]

theorem crcByte_xor (poly c d : Crc) (x y : Byte) :
    crcByte poly (c ^^^ d) (x ^^^ y) = crcByte poly c x ^^^ crcByte poly d y := by
  have hin : (c ^^^ d) ^^^ (x ^^^ y).setWidth 16 = (c ^^^ x.setWidth 16) ^^^ (d ^^^ y.setWidth 16) := by
    rw [BitVec.setWidth_xor]
    ac_rfl
  simp only [crcByte, hin, crcShifts_xor]

/-- Linearity over the sequence and the seed together. -/
theorem crc16_zipWith_xor (poly : Crc) {a b : List Byte} (h : a.length = b.length) (c d : Crc) :
    crc16 (List.zipWith (· ^^^ ·) a b) poly (c ^^^ d) = crc16 a poly c ^^^ crc16 b poly d := by
  induction a generalizing b c d with
  | nil =>
    obtain rfl := List.length_eq_zero_iff.mp h.symm
    rfl
  | cons x xs ih =>
    obtain ⟨y, ys, rfl⟩ := List.exists_cons_of_length_eq_add_one h.symm
    simp only [List.zipWith_cons_cons, crc16_cons, crcByte_xor]
    exact ih (by simpa using h) _ _

/-- Settles O43: the seed 0 is `0 ^^^ 0`. -/
theorem crcIsLinear : Obligations.CrcIsLinear :=
  fun _ _ h => crc16_zipWith_xor 0x8408#16 h 0#16 0#16

/-! ### The residue and the leading zeros -/

/-- As long as no 1 leaves, the polynomial stays out. -/
theorem crcShifts_of_low_zeros (poly : Crc) {n : Nat} {c : Crc} (h : ∀ i < n, c.getLsbD i = false) :
    crcShifts poly n c = c >>> n := by
  induction n generalizing c with
  | zero => rfl
  | succ n ih =>
    have hshift : crcShift poly c = c >>> 1 := by rw [crcShift, h 0 n.succ_pos, if_neg (by decide)]
    rw [crcShifts, hshift, ih fun i hi => ?_, ← BitVec.shiftRight_add, Nat.add_comm]
    rw [BitVec.getLsbD_ushiftRight]
    exact h _ (by omega)

/-- The low byte of the running value cancels itself. -/
theorem crcByte_own_low_byte (poly c : Crc) : crcByte poly c (c.extractLsb' 0 8) = c >>> 8 := by
  have hlow : ∀ i < 8, (c ^^^ (c.extractLsb' 0 8).setWidth 16).getLsbD i = false := fun i hi => by
    simp [hi, show i < 16 by omega]
  have hhigh : (c ^^^ (c.extractLsb' 0 8).setWidth 16) >>> 8 = c >>> 8 :=
    BitVec.eq_of_getLsbD_eq fun i _ => by simp
  rw [crcByte, crcShifts_of_low_zeros poly hlow, hhigh]

/-- The residue is 0, for every polynomial and every running value. -/
theorem crc16_own_bytes (poly c : Crc) : crc16 [c.extractLsb' 0 8, c.extractLsb' 8 8] poly c = 0#16 := by
  have hhigh : c.extractLsb' 8 8 = (c >>> 8).extractLsb' 0 8 :=
    BitVec.eq_of_getLsbD_eq fun i hi => by simp [hi]
  calc crc16 [c.extractLsb' 0 8, c.extractLsb' 8 8] poly c
      = crcByte poly (c >>> 8) ((c >>> 8).extractLsb' 0 8) := by
        rw [crc16_cons, crcByte_own_low_byte, hhigh, crc16_cons, crc16_nil]
    _ = c >>> 8 >>> 8 := crcByte_own_low_byte poly (c >>> 8)
    _ = 0#16 := by rw [← BitVec.shiftRight_add, BitVec.ushiftRight_eq_zero (by decide)]

/-- Zero bytes leave the zero register alone. -/
theorem crc16_replicate_zero (poly : Crc) (n : Nat) : crc16 (List.replicate n 0) poly 0#16 = 0#16 := by
  induction n with
  | zero => rfl
  | succ n ih =>
    have hbyte : crcByte poly 0#16 0 = 0#16 := crcShifts_of_low_zeros poly (by simp)
    rw [List.replicate_succ, crc16_cons, hbyte, ih]

/-- Settles O44: the checksum's own bytes shift it out, and leading zeros keep the seed. -/
theorem crcResidueAndLeadingZeros : Obligations.CrcResidueAndLeadingZeros := by
  refine ⟨fun b => ?_, fun b n => ?_⟩
  · refine (crc16_append b _ _ _).trans ?_
    exact crc16_own_bytes _ _
  · rw [crc16_append, crc16_replicate_zero]

/-! ### No change is lost -/

/-- With the polynomial's top bit set a shift can be undone: the top bit of the outcome is the bit that left. -/
theorem crcShift_injective {poly : Crc} (hpoly : poly.getLsbD 15 = true) : Function.Injective (crcShift poly) := by
  intro c d h
  have hbits (i : Nat) : (c.getLsbD (i + 1) ^^ (c.getLsbD 0 && poly.getLsbD i))
      = (d.getLsbD (i + 1) ^^ (d.getLsbD 0 && poly.getLsbD i)) := by
    rw [← getLsbD_crcShift, h, getLsbD_crcShift]
  have hout : c.getLsbD 0 = d.getLsbD 0 := by
    have htop := hbits 15
    rwa [hpoly, Bool.and_true, Bool.and_true, BitVec.getLsbD_of_ge c 16 le_rfl, BitVec.getLsbD_of_ge d 16 le_rfl,
      Bool.false_xor, Bool.false_xor] at htop
  refine BitVec.eq_of_getLsbD_eq fun i hi => ?_
  cases i with
  | zero => exact hout
  | succ i =>
    have hbit := hbits i
    rwa [hout, Bool.xor_left_inj] at hbit

theorem crcShifts_injective {poly : Crc} (hpoly : poly.getLsbD 15 = true) (n : Nat) :
    Function.Injective (crcShifts poly n) := by
  induction n with
  | zero => exact fun _ _ h => h
  | succ n ih => exact ih.comp (crcShift_injective hpoly)

/-- The same byte keeps different running values different. -/
theorem crcByte_left_injective {poly : Crc} (hpoly : poly.getLsbD 15 = true) (b : Byte) :
    Function.Injective fun c => crcByte poly c b :=
  fun _ _ h => (BitVec.xor_left_inj _).mp (crcShifts_injective hpoly 8 h)

/-- Different bytes make the same running value different. -/
theorem crcByte_injective {poly : Crc} (hpoly : poly.getLsbD 15 = true) (c : Crc) :
    Function.Injective (crcByte poly c) := by
  intro x y h
  have hwide : x.setWidth 16 = y.setWidth 16 := (BitVec.xor_right_inj c).mp (crcShifts_injective hpoly 8 h)
  simpa using congrArg (BitVec.setWidth 8) hwide

/-- The same bytes keep different seeds different. -/
theorem crc16_seed_injective {poly : Crc} (hpoly : poly.getLsbD 15 = true) (bytes : List Byte) :
    Function.Injective (crc16 bytes poly) := by
  induction bytes with
  | nil => exact fun _ _ h => h
  | cons b bs ih => exact ih.comp (crcByte_left_injective hpoly b)

/-- Settles O45: the changed byte separates the running values, and the bytes after it keep them apart. -/
theorem crcSeesEveryByte : Obligations.CrcSeesEveryByte := by
  intro before after x y hxy h
  have hpoly : (0x8408#16).getLsbD 15 = true := rfl
  rw [crc16_append, crc16_append, crc16_cons, crc16_cons] at h
  exact hxy (crcByte_injective hpoly _ (crc16_seed_injective hpoly after h))

end Sys2Proof.Machine
end

section
/-! PROOF. The formatter (43_formatter.md R190 to R202): what `FORMAT` does to an empty and to a full mailbox, which
frames it rejects, and when the record moves. -/

namespace Sys2Proof.Machine

/-! ### The mailbox after `FORMAT` -/

theorem State.format_of_empty {s : State} (h : s.frameValid = false) : s.format = s.answer .noFrame := by
  simp [State.format, h]

/-- `FORMAT` always leaves the mailbox empty (43_formatter.md R192). -/
@[simp] theorem State.format_frameValid (s : State) : s.format.frameValid = false := by
  obtain ⟨hv, h⟩ | ⟨_, _, h⟩ | ⟨_, _, h⟩ := s.format_cases
  all_goals rw [h]
  · exact hv
  · rfl
  · rfl

theorem Inv.frameValid_of_em4100 {s : State} (h : Inv s) (hp : s.protocol = .em4100) : s.frameValid = false := by
  obtain ⟨-, -, hempty, -⟩ := h.build.2 hp
  exact hempty

/-- Settles O31: the three cases of `FORMAT`, the first of which is the only one an EM4100 build can reach. -/
theorem formatConsumesTheMailbox : Obligations.FormatConsumesTheMailbox := by
  have hempty (s : State) (h : s.frameValid = false) :
      exec .format s = .next { s with result := some .noFrame, report := none } :=
    congrArg Host.Outcome.next (State.format_of_empty h)
  refine ⟨hempty, fun s hv => ⟨s.format, rfl, ?_⟩, fun s hp hs => hempty s (hs.frameValid_of_em4100 hp)⟩
  obtain ⟨hnone, _⟩ | ⟨_, _, h⟩ | ⟨_, _, h⟩ := s.format_cases
  · simp [hv] at hnone
  · rw [h]
    exact ⟨rfl, rfl, .inl rfl⟩
  · rw [h]
    exact ⟨rfl, rfl, .inr rfl⟩

/-! ### The two outcomes of the check -/

theorem crcMatches_iff (f : Frame) : crcMatches f = true ↔ crc16 (frameBytes f) 0x8408#16 0x0000#16 = crcRx f :=
  beq_iff_eq

theorem crcMatches_eq_false_iff (f : Frame) :
    crcMatches f = false ↔ crc16 (frameBytes f) 0x8408#16 0x0000#16 ≠ crcRx f :=
  beq_eq_false_iff_ne

/-- Settles O32: the mismatch case of `FORMAT`. -/
theorem formatOnAMismatch : Obligations.FormatOnAMismatch := fun s hv hne =>
  congrArg Host.Outcome.next (State.format_of_crcMismatch hv ((crcMatches_eq_false_iff s.fo).mpr hne))

/-- Settles O33: the match case of `FORMAT`, with the record of the frame written out. -/
theorem formatOnAMatch : Obligations.FormatOnAMatch := fun s hv heq =>
  congrArg Host.Outcome.next (State.format_of_crcMatches hv ((crcMatches_iff s.fo).mpr heq))

/-! ### The uniform frames -/

theorem crcMatches_zero : crcMatches 0#128 = true := by
  have hbytes : frameBytes 0#128 = List.replicate 8 0 := by decide
  rw [crcMatches_iff, hbytes, crc16_replicate_zero]
  decide

theorem recordOf_zero : recordOf 0#128 = TagRecord.zero := by decide

/-- The checksum of eight bytes of ones is `0x8765`, and the transmitted one is `0xFFFF`. -/
theorem crcMatches_allOnes : crcMatches (BitVec.allOnes 128) = false := by decide +kernel

/-- Settles O42: the zero frame passes the check with the zero record, the frame of ones does not pass. -/
theorem formatOfTheUniformFrames : Obligations.FormatOfTheUniformFrames := by
  refine fun s hv => ⟨fun hfo => ?_, fun hfo => ?_⟩
  · have hc : crcMatches s.fo = true := hfo ▸ crcMatches_zero
    have hrecord : recordOf s.fo = TagRecord.zero := hfo ▸ recordOf_zero
    have hempty : s.emptyMailbox = { s with frameValid := false } := by rw [State.emptyMailbox, ← hfo]
    rw [exec_format, State.format_of_crcMatches hv hc, hrecord, hempty]
    rfl
  · have hc : crcMatches s.fo = false := hfo ▸ crcMatches_allOnes
    rw [exec_format, State.format_of_crcMismatch hv hc]
    rfl

/-! ### When the record moves -/

/-- `RECORD_OK` is the answer to a full mailbox that passes the check, and to nothing else. -/
theorem State.format_result_eq_recordOk {s : State} (h : s.format.result = some .recordOk) :
    s.frameValid = true ∧ crcMatches s.fo = true := by
  obtain ⟨_, e⟩ | ⟨hv, hc, _⟩ | ⟨_, _, e⟩ := s.format_cases
  · simp [e] at h
  · exact ⟨hv, hc⟩
  · simp [e] at h

theorem State.sampleFdxb_result_ne_recordOk (d : Bool) (s : State) : (s.sampleFdxb d).result ≠ some .recordOk := by
  obtain ⟨_, h⟩ | ⟨_, _, _, h⟩ | ⟨_, _, _, h⟩ | ⟨_, _, _, h⟩ | ⟨_, _, _, h⟩ | ⟨_, _, _, h⟩ | ⟨_, _, _, h⟩ :=
    s.sampleFdxb_cases d
  all_goals simp [h]

theorem State.countEmBit_result_ne_recordOk (s : State) : s.countEmBit.result ≠ some .recordOk := by
  obtain ⟨_, h⟩ | ⟨_, h⟩ := s.countEmBit_cases
  all_goals simp [h]

theorem State.sampleEm4100_result_ne_recordOk (d : Bool) (s : State) :
    (s.sampleEm4100 d).result ≠ some .recordOk := by
  obtain ⟨_, h⟩ | ⟨_, _, _, h⟩ | ⟨_, _, _, h⟩ | ⟨_, _, _, _, h⟩ | ⟨_, _, _, _, _, h⟩ | ⟨_, _, _, _, _, h⟩ |
    ⟨_, _, _, h⟩ := s.sampleEm4100_cases d
  all_goals simp [h, State.countEmBit_result_ne_recordOk]

theorem State.activate_result_ne_recordOk (s : State) : s.activate.result ≠ some .recordOk := by
  obtain ⟨_, h⟩ | ⟨_, h⟩ := s.activate_cases
  all_goals simp [h]

/-- Only `FORMAT` answers `RECORD_OK` (43_formatter.md R197). -/
theorem eq_format_of_recordOk {i : Instr} {s t : State} (h : exec i s = .next t) (hr : t.result = some .recordOk) :
    i = .format := by
  cases i <;> cases h
  case format => rfl
  case sampleFdxb d => exact absurd hr (s.sampleFdxb_result_ne_recordOk d)
  case sampleEm4100 d => exact absurd hr (s.sampleEm4100_result_ne_recordOk d)
  case activate => exact absurd hr s.activate_result_ne_recordOk
  case deactivate => simp [s.deactivate_eq] at hr
  -- `NOP` and the reserved words answer their own codes
  all_goals simp at hr

/-- An operation leaves the record alone, or it answers `RECORD_OK`. -/
theorem exec_record {i : Instr} {s t : State} (h : exec i s = .next t) :
    t.record = s.record ∨ t.result = some .recordOk := by
  cases i
  case sampleEm4100 d =>
    cases h
    obtain ⟨_, _, _, _, _, _, _, _, _, _, e⟩ := s.sampleEm4100_writes d
    exact .inl (by rw [e]; rfl)
  case format =>
    cases h
    exact s.format_identity.imp (fun ⟨hrecord, _, _⟩ => hrecord) (fun ⟨_, hr⟩ => hr)
  all_goals
    obtain ⟨hrecord, -⟩ := exec_sameIdentity h (by simp) (by simp)
    exact .inl hrecord

@[simp] theorem State.fetch_record (s : State) : s.fetch.record = s.record := by
  obtain ⟨p, rest, h⟩ := s.fetch_cases
  rw [h]

/-- Settles O34: only the match case of `FORMAT` answers `RECORD_OK`, and it alone writes the record. -/
theorem recordMovesOnlyWithRecordOk : Obligations.RecordMovesOnlyWithRecordOk := by
  refine ⟨fun i s t h hr => ?_, fun s t h hne => ?_⟩
  · obtain rfl := eq_format_of_recordOk h hr
    cases h
    obtain ⟨hv, hc⟩ := State.format_result_eq_recordOk hr
    rw [State.format_of_crcMatches hv hc]
    exact ⟨rfl, rfl⟩
  · obtain ⟨hrst, -⟩ | ⟨-, hexec⟩ := step_cases h
    · exact .inr hrst
    · have hsame : t.record ≠ s.fetch.record := by rwa [s.fetch_record]
      exact .inl ((exec_record hexec).resolve_left hsame)

/-! ### Frames that differ in the extra bytes alone -/

/-- The frames agree in every cell that no extra byte holds (43_formatter.md R198). -/
abbrev AgreeOutsideExtraBytes (f g : Frame) : Prop := ∀ i < 128, cellIsExtra i = false → f.getLsbD i = g.getLsbD i

/-- The frames then agree in the data bytes and the transmitted checksum, the first ten groups. -/
theorem AgreeOutsideExtraBytes.frameByte_eq {f g : Frame} (h : AgreeOutsideExtraBytes f g) {k : Nat} (hk : k < 10) :
    frameByte f k = frameByte g k := by
  refine BitVec.eq_of_getLsbD_eq fun i hi => ?_
  have hcell : cellIsExtra (9 * k + i) = false := by simp [cellIsExtra, show ¬ 90 ≤ 9 * k + i by omega]
  rw [getLsbD_frameByte f k hi, getLsbD_frameByte g k hi]
  exact h _ (by omega) hcell

theorem AgreeOutsideExtraBytes.crcMatches_eq {f g : Frame} (h : AgreeOutsideExtraBytes f g) :
    crcMatches f = crcMatches g := by
  have hbytes : frameBytes f = frameBytes g :=
    List.map_congr_left fun k hk => h.frameByte_eq (by simp at hk; omega)
  have hrx : crcRx f = crcRx g := by
    simp [crcRx_eq_frameByte, h.frameByte_eq]
  rw [crcMatches, crcMatches, hbytes, hrx]

theorem AgreeOutsideExtraBytes.recordOf_eq {f g : Frame} (h : AgreeOutsideExtraBytes f g) :
    recordOf g = { recordOf f with extraData := #v[memRead8 g 90, memRead8 g 99, memRead8 g 108] } := by
  simp [recordOf, tagIdOf, countryCodeOf, extraByte, h.frameByte_eq]

/-- Settles O39: the check reads no extra byte, and the record reads them into `extraData` alone. -/
theorem extraBytesAreNotChecked : Obligations.ExtraBytesAreNotChecked := by
  intro s t f g hv hagree h hr
  have hfg : AgreeOutsideExtraBytes f g := hagree
  cases h
  obtain ⟨-, hf⟩ := State.format_result_eq_recordOk hr
  have hg : crcMatches g = true := hfg.crcMatches_eq ▸ hf
  rw [exec_format, State.format_of_crcMatches (s := { s with fo := f }) hv hf,
    State.format_of_crcMatches (s := { s with fo := g }) hv hg, hfg.recordOf_eq]
  rfl

/-! ### Frames that differ in one data byte -/

/-- The bytes of the other groups are the same. -/
theorem DifferInDataByte.frameByte_eq {f g : Frame} {k j : Nat} (h : DifferInDataByte k f g) (hj : j < 13)
    (hjk : j ≠ k) : frameByte g j = frameByte f j := by
  obtain ⟨hcells, -⟩ := h
  refine BitVec.eq_of_getLsbD_eq fun i hi => ?_
  rw [getLsbD_frameByte g j hi, getLsbD_frameByte f j hi]
  exact hcells _ (by omega) (by omega)

/-- The byte itself differs, since the frames do. -/
theorem DifferInDataByte.frameByte_ne {f g : Frame} {k : Nat} (h : DifferInDataByte k f g) :
    frameByte f k ≠ frameByte g k := by
  obtain ⟨hcells, hne⟩ := h
  intro hbyte
  refine hne (BitVec.eq_of_getLsbD_eq fun i hi => ?_)
  by_cases hin : 9 * k ≤ i ∧ i < 9 * k + 8
  · have hbit := getLsbD_frameByte f k (i := i - 9 * k) (by omega)
    rw [hbyte, getLsbD_frameByte g k (by omega)] at hbit
    rwa [show 9 * k + (i - 9 * k) = i by omega] at hbit
  · exact hcells i hi hin

/-- The checksum over the data bytes differs (42_crc16.md R184). -/
theorem DifferInDataByte.crc16_frameBytes_ne {f g : Frame} {k : Nat} (h : DifferInDataByte k f g) (hk : k < 8) :
    crc16 (frameBytes f) 0x8408#16 0x0000#16 ≠ crc16 (frameBytes g) 0x8408#16 0x0000#16 := by
  obtain ⟨before, after, hsplit⟩ := List.append_of_mem (List.mem_range.mpr hk)
  have hnodup : (before ++ k :: after).Nodup := hsplit ▸ List.nodup_range
  obtain ⟨hnotin, -⟩ := List.nodup_cons.mp (List.nodup_middle.mp hnodup)
  have hother (j : Nat) (hj : j ∈ before ++ after) : frameByte g j = frameByte f j := by
    have hj8 : j ∈ List.range 8 := by
      rw [hsplit]
      simp only [List.mem_append, List.mem_cons] at hj ⊢
      tauto
    have hlt := List.mem_range.mp hj8
    exact h.frameByte_eq (by omega) fun hjk => hnotin (hjk ▸ hj)
  have hbefore : before.map (frameByte g) = before.map (frameByte f) :=
    List.map_congr_left fun j hj => hother j (List.mem_append_left _ hj)
  have hafter : after.map (frameByte g) = after.map (frameByte f) :=
    List.map_congr_left fun j hj => hother j (List.mem_append_right _ hj)
  rw [frameBytes, frameBytes, hsplit, List.map_append, List.map_append, List.map_cons, List.map_cons, hbefore, hafter]
  exact crcSeesEveryByte _ _ _ _ h.frameByte_ne

/-- The transmitted checksum is in other cells. -/
theorem DifferInDataByte.crcRx_eq {f g : Frame} {k : Nat} (h : DifferInDataByte k f g) (hk : k < 8) :
    crcRx g = crcRx f := by
  rw [crcRx_eq_frameByte, crcRx_eq_frameByte, h.frameByte_eq (j := 8) (by omega) (by omega),
    h.frameByte_eq (j := 9) (by omega) (by omega)]

/-- Settles O40: the computed checksum moves away from the transmitted one, which stands. -/
theorem formatRejectsACorruptedDataByte : Obligations.FormatRejectsACorruptedDataByte := by
  intro s f g k hv hk hf hdiff
  have hg : crc16 (frameBytes g) 0x8408#16 0x0000#16 ≠ crcRx g := by
    rw [hdiff.crcRx_eq hk, ← hf]
    exact (hdiff.crc16_frameBytes_ne hk).symm
  exact formatOnAMismatch { s with fo := g } hv hg

/-! ### No frame without a completion -/

@[simp] theorem State.fetch_frameValid (s : State) : s.fetch.frameValid = s.frameValid := by
  obtain ⟨p, rest, h⟩ := s.fetch_cases
  rw [h]

/-- An empty mailbox stays empty in a step that completes no frame (20_memory.md R70). -/
theorem step_keeps_empty {s t : State} (h : step s = .next t) (hr : t.result ≠ some .frameComplete)
    (hempty : s.frameValid = false) : t.frameValid = false := by
  obtain ⟨-, rfl⟩ | ⟨-, hexec⟩ := step_cases h
  · rfl
  obtain ⟨-, hsame⟩ | ⟨hcomplete, -⟩ | ⟨-, -, hconsumed⟩ := exec_mailbox hexec
  · rw [hsame, s.fetch_frameValid, hempty]
  · exact absurd hcomplete hr
  · exact hconsumed

theorem RunsWithoutCompletion.keeps_empty {k : Nat} {s u : State} (h : RunsWithoutCompletion k s u)
    (hempty : s.frameValid = false) : u.frameValid = false := by
  induction k generalizing s with
  | zero =>
    obtain rfl := h
    exact hempty
  | succ k ih =>
    obtain ⟨t, hstep, hr, hrest⟩ := h
    exact ih hrest (step_keeps_empty hstep hr hempty)

/-- Settles O41: the first `FORMAT` leaves the mailbox empty, and it is still empty at the second. -/
theorem formatTwiceFindsNoFrame : Obligations.FormatTwiceFindsNoFrame := by
  intro s t u k h hrun
  cases h
  exact congrArg Host.Outcome.next (State.format_of_empty (hrun.keeps_empty s.format_frameValid))

end Sys2Proof.Machine
end

section
/-! PROOF. The reader session (44_session.md R220 to R233): when the end time is latched, what moves the session, what a
failing check leaves alone, what the report carries, and what each operation of the controller does. -/

namespace Sys2Proof.Machine

/-! ### When the end time is latched -/

/-- The answer is `FRAME_COMPLETE` and `end_time` is the timer of the step, or it is another and `end_time` stands
(44_session.md R228). -/
abbrev LatchesEndOnCompletion (s t : State) : Prop :=
  (t.result = some .frameComplete ∧ t.endTime = s.port.now) ∨
  (t.result ≠ some .frameComplete ∧ t.endTime = s.endTime)

theorem State.sampleFdxb_endTime (d : Bool) (s : State) : LatchesEndOnCompletion s (s.sampleFdxb d) := by
  obtain ⟨_, h⟩ | ⟨_, _, _, h⟩ | ⟨_, _, _, h⟩ | ⟨_, _, _, h⟩ | ⟨_, _, _, h⟩ | ⟨_, _, _, h⟩ | ⟨_, _, _, h⟩ :=
    s.sampleFdxb_cases d
  all_goals rw [h]
  case inr.inr.inr.inr.inr.inr => exact .inl ⟨rfl, rfl⟩
  all_goals exact .inr ⟨by simp, rfl⟩

theorem State.countEmBit_endTime (s : State) : LatchesEndOnCompletion s s.countEmBit := by
  obtain ⟨_, h⟩ | ⟨_, h⟩ := s.countEmBit_cases
  all_goals rw [h]
  · exact .inl ⟨rfl, rfl⟩
  · exact .inr ⟨by simp, rfl⟩

theorem State.sampleEm4100_endTime (d : Bool) (s : State) : LatchesEndOnCompletion s (s.sampleEm4100 d) := by
  obtain ⟨_, h⟩ | ⟨_, _, _, h⟩ | ⟨_, _, _, h⟩ | ⟨_, _, _, _, h⟩ | ⟨_, _, _, _, _, h⟩ | ⟨_, _, _, _, _, h⟩ |
    ⟨_, _, _, h⟩ := s.sampleEm4100_cases d
  all_goals rw [h]
  case inr.inr.inr.inl => exact (s.storeEmBit d).countEmBit_endTime
  case inr.inr.inr.inr.inl => exact s.storeNibble.countEmBit_endTime
  case inr.inr.inr.inr.inr.inr => exact s.countEmBit_endTime
  all_goals exact .inr ⟨by simp, rfl⟩

/-- Only a `SAMPLE` answers `FRAME_COMPLETE`. -/
theorem eq_sample_of_frameComplete {i : Instr} {s t : State} (h : exec i s = .next t)
    (hr : t.result = some .frameComplete) : ∃ d, i = .sampleFdxb d ∨ i = .sampleEm4100 d := by
  cases i <;> cases h
  case sampleFdxb d => exact ⟨d, .inl rfl⟩
  case sampleEm4100 d => exact ⟨d, .inr rfl⟩
  case activate =>
    obtain ⟨_, e⟩ | ⟨_, e⟩ := s.activate_cases
    all_goals simp [e] at hr
  case deactivate => simp [s.deactivate_eq] at hr
  case format =>
    obtain ⟨_, e⟩ | ⟨_, _, e⟩ | ⟨_, _, e⟩ := s.format_cases
    all_goals simp [e] at hr
  -- `NOP` and the reserved words answer their own codes
  all_goals simp at hr

theorem exec_endTime {i : Instr} {s t : State} (h : exec i s = .next t) : LatchesEndOnCompletion s t := by
  by_cases hsample : ∃ d, i = .sampleFdxb d ∨ i = .sampleEm4100 d
  · obtain ⟨d, rfl | rfl⟩ := hsample
    all_goals cases h
    · exact s.sampleFdxb_endTime d
    · exact s.sampleEm4100_endTime d
  · obtain ⟨-, -, -, -, -, -, hend, -⟩ := onlyTheNamedOperationsWrite i s t h
    exact .inr ⟨fun hr => hsample (eq_sample_of_frameComplete h hr), hend (by simpa using hsample)⟩

/-- Settles O55: only a `SAMPLE` completes a frame, and every operation latches the end time on completion alone. -/
theorem endTimeIsLatchedByCompletionAlone : Obligations.EndTimeIsLatchedByCompletionAlone := by
  intro i s t h
  obtain ⟨hr, hend⟩ | ⟨hr, hend⟩ := exec_endTime h
  · exact ⟨fun _ => ⟨hend, eq_sample_of_frameComplete h hr⟩, fun hne => absurd hr hne⟩
  · exact ⟨fun hc => absurd hc hr, fun _ => hend⟩

/-! ### What moves the session -/

/-- An operation leaves the session as it is, or it is one of the transitions of 44_session.md R220. -/
theorem exec_session {i : Instr} {s t : State} (h : exec i s = .next t) :
    t.session = s.session ∨
    (s.session = .idle ∧ t.session = .active ∧ i = .activate) ∨
    (s.session = .active ∧ t.session = .idle ∧ i = .deactivate) := by
  by_cases ha : i = .activate
  · subst ha
    cases h
    obtain ⟨_, e⟩ | ⟨hidle, e⟩ := s.activate_cases
    · exact .inl (by rw [e]; rfl)
    · exact .inr (.inl ⟨hidle, by rw [e]; rfl, rfl⟩)
  by_cases hd : i = .deactivate
  · subst hd
    cases h
    cases hs : s.session with
    | idle => exact .inl rfl
    | active => exact .inr (.inr ⟨rfl, rfl, rfl⟩)
  obtain ⟨hsession, -⟩ := exec_sameSession h ha hd
  exact .inl hsession

@[simp] theorem State.fetch_session (s : State) : s.fetch.session = s.session := by
  obtain ⟨p, rest, h⟩ := s.fetch_cases
  rw [h]

/-- Settles O58: without `rst` the step is the operation on the ports, and the fetch before it leaves the session. -/
theorem sessionMovesByTheControllerAlone : Obligations.SessionMovesByTheControllerAlone := by
  intro s t h hr hmoved
  rw [step_of_no_rst hr] at h
  have hcases := exec_session h
  rw [s.fetch_session] at hcases
  exact hcases.resolve_left hmoved

/-! ### A failing integrity check -/

/-- An operation leaves the session elements alone, or it answers `OK`. -/
theorem exec_sameSession_or_ok {i : Instr} {s t : State} (h : exec i s = .next t) :
    SameSession s t ∨ t.result = some .ok := by
  by_cases ha : i = .activate
  · subst ha
    cases h
    obtain ⟨_, e⟩ | ⟨_, e⟩ := s.activate_cases
    all_goals rw [e]
    · exact .inl ⟨rfl, rfl, rfl, rfl, rfl⟩
    · exact .inr rfl
  by_cases hd : i = .deactivate
  · subst hd
    cases h
    exact .inr rfl
  exact .inl (exec_sameSession h ha hd)

/-- An operation leaves the identity alone, or it answers that it decoded one. In either build, so that it speaks of a
`SAMPLE` row of the other one too (log entry 9). -/
theorem exec_sameIdentity_or_decoded {i : Instr} {s t : State} (h : exec i s = .next t) :
    SameIdentity s t ∨ t.result = some .recordOk ∨ t.result = some .frameComplete := by
  cases i
  case sampleEm4100 d =>
    cases h
    exact (s.sampleEm4100_identity d).imp_right fun ⟨_, hr⟩ => .inr hr
  case format =>
    cases h
    exact s.format_identity.imp_right fun ⟨_, hr⟩ => .inl hr
  all_goals exact .inl (exec_sameIdentity h (by simp) (by simp))

/-- Settles O59: a new identity, a moved session and a latched end time each come with an answer that is no failure. -/
theorem failedChecksKeepTheLastIdentity : Obligations.FailedChecksKeepTheLastIdentity := by
  intro i s t h hfail
  have hanswer : t.result ≠ some .ok ∧ t.result ≠ some .recordOk ∧ t.result ≠ some .frameComplete := by
    obtain hr | hr := hfail
    all_goals simp [hr]
  obtain ⟨hok, hrecord, hcomplete⟩ := hanswer
  obtain ⟨-, hend⟩ := (exec_endTime h).resolve_left fun ⟨hr, _⟩ => hcomplete hr
  exact ⟨(exec_sameIdentity_or_decoded h).resolve_right (not_or.mpr ⟨hrecord, hcomplete⟩),
    (exec_sameSession_or_ok h).resolve_right hok, hend⟩

/-! ### The report -/

theorem tag64_of_fdxb {s : State} (hv : s.tagValid = true) (hp : s.protocol = .fdxb) :
    tag64 s = s.record.tagId.setWidth 64 := by
  simp [tag64, hv, hp]

theorem tag64_of_em4100 {s : State} (hv : s.tagValid = true) (hp : s.protocol = .em4100) :
    tag64 s = s.emId.setWidth 64 := by
  simp [tag64, hv, hp]

theorem tag64_of_no_identity {s : State} (hv : s.tagValid = false) : tag64 s = 0#64 := by
  simp [tag64, hv]

/-- Every operation but `DEACTIVATE` ends in an answer, which puts nothing on the report port. -/
theorem exec_report {i : Instr} {s t : State} (h : exec i s = .next t) (hd : i ≠ .deactivate) : t.report = none := by
  cases i <;> cases h
  case deactivate => exact absurd rfl hd
  case sampleFdxb d =>
    obtain ⟨_, _, _, _, _, _, _, e⟩ := s.sampleFdxb_writes d
    rw [e, State.answer_report]
  case sampleEm4100 d =>
    obtain ⟨_, _, _, _, _, _, _, _, _, _, e⟩ := s.sampleEm4100_writes d
    rw [e, State.answer_report]
  case format =>
    obtain ⟨_, _, _, _, _, e⟩ := s.format_writes
    rw [e, State.answer_report]
  case activate =>
    obtain ⟨_, _, _, _, _, e⟩ := s.activate_writes
    rw [e, State.answer_report]
  -- `NOP` and the reserved words only answer
  all_goals exact s.answer_report _

/-- Settles O51: `DEACTIVATE` reports `tag64`, which is read off by build; the other operations only answer. -/
theorem reportCarriesTheLastIdentity : Obligations.ReportCarriesTheLastIdentity := by
  refine ⟨fun s => ⟨s.deactivate, s.reportNow, rfl, rfl, rfl, rfl, fun hv hp => ?_, fun hv hp => ?_, ?_⟩,
    fun _ _ _ => exec_report⟩
  · rw [State.reportNow, tag64_of_fdxb hv hp]
    exact BitVec.toNat_setWidth_of_le (by decide)
  · rw [State.reportNow, tag64_of_em4100 hv hp]
    exact BitVec.toNat_setWidth_of_le (by decide)
  · exact tag64_of_no_identity

/-! ### `ACTIVATE` -/

theorem State.activate_of_idle {s : State} (h : s.session = .idle) : s.activate = s.openSession.answer .ok := by
  simp [State.activate, h]

theorem State.activate_of_active {s : State} (h : s.session = .active) : s.activate = s.answer .sessionBusy := by
  simp [State.activate, h]

@[simp] theorem State.activate_session (s : State) : s.activate.session = .active := by
  obtain ⟨hactive, h⟩ | ⟨_, h⟩ := s.activate_cases
  all_goals rw [h]
  · exact hactive
  · rfl

/-- In an Idle session every cell of the decoder is 0, so the whole of it is (10_state.md R27). -/
theorem IdleInv.decoderCleared {s : State} (h : IdleInv s) (hidle : s.session = .idle) : DecoderCleared s := by
  obtain ⟨hh, hb, hnp, hni, hgrp, hraw, hnib⟩ := h hidle
  have hframe : s.raw = 0#128 := BitVec.eq_of_getLsbD_eq fun i hi => by simpa using hraw ⟨i, hi⟩
  exact ⟨hh, hb, hnp, hni, hgrp, hframe, hnib⟩

/-- Settles O46: the two cases of `ACTIVATE`. -/
theorem activateOpensAnIdleSession : Obligations.ActivateOpensAnIdleSession :=
  ⟨fun _ => decode_encode (i := .activate) rfl,
    fun _ hinv hidle => hinv.idle.decoderCleared hidle,
    fun _ => ⟨fun hidle => congrArg Host.Outcome.next (State.activate_of_idle hidle),
      fun hactive => congrArg Host.Outcome.next (State.activate_of_active hactive)⟩⟩

/-- Settles O47: after `ACTIVATE` the session is Active and the report port empty, so the second one only answers. -/
theorem activateTwiceIsOnce : Obligations.ActivateTwiceIsOnce := by
  intro s t h
  have hreport : t.report = none := exec_report h (by simp)
  cases h
  rw [exec_activate, State.activate_of_active s.activate_session, State.answer, ← hreport]

/-! ### `DEACTIVATE` -/

/-- Settles O48: `DEACTIVATE` is one update of the state, the same from either session. -/
theorem deactivateClosesTheSession : Obligations.DeactivateClosesTheSession :=
  ⟨fun _ => decode_encode (i := .deactivate) rfl,
    fun s => ⟨s.reportNow, congrArg Host.Outcome.next s.deactivate_eq, rfl⟩⟩

/-- `DEACTIVATE` writes constants and what it reads off fields that it leaves alone. -/
theorem State.deactivate_deactivate (s : State) : s.deactivate.deactivate = s.deactivate := rfl

/-- Settles O49: the second `DEACTIVATE` reads and writes the same values again, the report included. -/
theorem deactivateIsIdempotent : Obligations.DeactivateIsIdempotent :=
  fun s => ⟨s.deactivate, exec_deactivate s, congrArg Host.Outcome.next s.deactivate_deactivate⟩

theorem State.deactivate_duration (s : State) : s.deactivate.duration = s.elapsed := rfl

theorem State.toNat_elapsed (s : State) :
    s.elapsed.toNat = (s.endTime.toNat + 2 ^ 32 - s.startTime.toNat) % 2 ^ 32 := by
  have hstart := s.startTime.isLt
  rw [State.elapsed, BitVec.toNat_sub]
  congr 1
  omega

/-- Settles O50: the duration is the difference of the two timestamps modulo `2^32`, which takes the wrap of the timer
out again. -/
theorem durationSurvivesTheWrap : Obligations.DurationSurvivesTheWrap := by
  refine fun s => ⟨s.deactivate, exec_deactivate s, ?_⟩
  rw [s.deactivate_duration]
  refine ⟨s.toNat_elapsed, fun n hn hend => ?_⟩
  have hstart := s.startTime.isLt
  rw [s.toNat_elapsed, hend]
  omega

/-! ### `NOP` and the idle step -/

theorem decode_nop (p : Protocol) : decode p 0x0#4 = .nop := decode_encode (i := .nop) rfl

/-- Settles O52: `NOP` is the answer alone. -/
theorem nopChangesNothing : Obligations.NopChangesNothing :=
  ⟨decode_nop, exec_nop⟩

/-- Settles O5: with nothing presented the ports carry the word of `NOP`, which only answers. -/
theorem stepWithNothingPresentedIsIdle : Obligations.StepWithNothingPresentedIsIdle := by
  intro s h
  have hf : s.fetch = { s with port := idleInput s.port.now } := State.fetch_nil h
  have hnop : s.fetch.current = .nop := by
    rw [hf]
    exact decode_nop s.protocol
  rw [step_of_no_rst (by rw [hf]; rfl), hnop, hf]
  rfl

end Sys2Proof.Machine
end

section
/-! PROOF. The two requesters of the port (60_exceptions.md R250, R260, R266; 70_reset_and_hazards.md R310, R314): every
step answers a next state, and the pins give an edge the very next step or lose it. -/

namespace Sys2Proof.Machine

/-! ### Every step answers -/

theorem step_total (s : State) : ∃ t, step s = .next t := by
  cases hr : s.fetch.port.rst with
  | true => exact ⟨_, step_of_rst hr⟩
  | false =>
    rw [step_of_no_rst hr]
    exact exec_total _ _

/-- Settles O8: every arm of `exec` is a next state, and a step is a reset or an operation. -/
theorem everyStepAnswersANextState : Obligations.EveryStepAnswersANextState :=
  ⟨exec_total, step_total⟩

/-! ### No operation takes from what waits -/

theorem exec_keeps_inputs {i : Instr} {s t : State} (h : exec i s = .next t) : t.inputs = s.inputs := by
  cases i <;> cases h
  case sampleFdxb d =>
    obtain ⟨_, _, _, _, _, _, _, e⟩ := s.sampleFdxb_writes d
    rw [e, State.answer_inputs]
  case sampleEm4100 d =>
    obtain ⟨_, _, _, _, _, _, _, _, _, _, e⟩ := s.sampleEm4100_writes d
    rw [e, State.answer_inputs]
  case format =>
    obtain ⟨_, _, _, _, _, e⟩ := s.format_writes
    rw [e, State.answer_inputs]
  case activate =>
    obtain ⟨_, _, _, _, _, e⟩ := s.activate_writes
    rw [e, State.answer_inputs]
  -- `DEACTIVATE` writes no port, and `NOP` and the reserved words only answer
  all_goals rfl

/-! ### The host's request -/

/-- A request that something waits before has the timer of the following step. -/
theorem Pins.requestAfter_cons {p : Pins} {i : Instr} (h : p.hostRequest = some i) (q : PortInput)
    (waiting : List PortInput) : p.requestAfter (q :: waiting) = [⟨encode i, p.nowNext, false⟩] := by
  simp [Pins.requestAfter, h]

theorem Pins.requestAfter_of_none {p : Pins} (h : p.hostRequest = none) (waiting : List PortInput) :
    p.requestAfter waiting = [] := by
  simp [Pins.requestAfter, h]

/-- A request the host may not issue is no request (60_exceptions.md R272). -/
theorem State.presentPins_of_not_hostMay (s : State) (edge : ClkEdge) {p : Pins} {i : Instr}
    (h : p.request = some i) (hm : i.hostMay = false) :
    s.presentPins edge p = s.presentPins edge { p with request := none } := by
  have hreq := Pins.requestAfter_of_none (Pins.hostRequest_of_not_hostMay h hm)
  have hnone := Pins.requestAfter_of_none (p := { p with request := none }) rfl
  rw [State.presentPins, State.presentPins, hreq, hnone]
  rfl

/-! ### The edge and its step -/

theorem State.stepForEdge_of_nil {s : State} (h : s.inputs = []) : s.stepForEdge = true := by
  simp [State.stepForEdge, h]

theorem State.takesEdge_of_stepTaken {s : State} (h : s.stepForEdge = false) : s.takesEdge = false := by
  simp [State.takesEdge, h]

/-- What waits behind the `SAMPLE` of an edge: all that waited before it, put off, and the host's request
(60_exceptions.md R266). -/
def State.behindEdge (edge : ClkEdge) (p : Pins) (s : State) : List PortInput :=
  postpone p.nowNext s.inputs ++ p.requestAfter (s.withEdge edge p)

theorem State.countP_behindEdge (edge : ClkEdge) (p : Pins) (s : State) :
    (s.behindEdge edge p).countP PortInput.isEdge = s.inputs.countP PortInput.isEdge := by
  rw [State.behindEdge, List.countP_append, countP_postpone, Pins.countP_requestAfter, Nat.add_zero]

section
variable {s : State} {edge : ClkEdge} {p : Pins} (hirq : s.irqEn = true) (hstep : s.stepForEdge = true)
  (hedge : edgeTaken edge p.clkBefore p.clkAfter = true)
include hirq hstep hedge

theorem State.withEdge_of_edge :
    s.withEdge edge p = ⟨eventWord 0b001#3 p.data, p.now, false⟩ :: postpone p.nowNext s.inputs :=
  State.withEdge_taken (by simp [State.takesEdge, hirq, hstep]) hedge

theorem State.presentPins_inputs_of_edge :
    (s.presentPins edge p).inputs = ⟨eventWord 0b001#3 p.data, p.now, false⟩ :: s.behindEdge edge p := by
  change s.withEdge edge p ++ p.requestAfter (s.withEdge edge p) = _
  rw [State.behindEdge, State.withEdge_of_edge hirq hstep hedge, List.cons_append]

/-- The very next step is the edge's `SAMPLE` (70_reset_and_hazards.md R310). -/
theorem step_presentPins_of_edge :
    step (s.presentPins edge p) =
      exec (sampleOf s.protocol p.data)
        { s with port := ⟨eventWord 0b001#3 p.data, p.now, false⟩, inputs := s.behindEdge edge p } :=
  stepRunsTheDecodedInstruction (s.presentPins edge p) _ _ (sampleOf s.protocol p.data)
    (State.presentPins_inputs_of_edge hirq hstep hedge) rfl (sampleOf_wf _ _) (encode_sampleOf _ _).symm

/-- With nothing else waiting, the host's request alone waits behind the edge. -/
theorem State.behindEdge_of_nil {i : Instr} (hnil : s.inputs = []) (hreq : p.hostRequest = some i) :
    s.behindEdge edge p = [⟨encode i, p.nowNext, false⟩] := by
  rw [State.behindEdge, State.withEdge_of_edge hirq hstep hedge, Pins.requestAfter_cons hreq, hnil, postpone_nil,
    List.nil_append]

end

/-- Settles O60: the edge's `SAMPLE` is at the head of the inputs and, since no operation takes from them, the host's
request is what the following step finds. -/
theorem coincidingEdgeIsServedFirst : Obligations.CoincidingEdgeIsServedFirst := by
  refine ⟨fun s edge p i hnil hirq hedge hreq hmay => ?_,
    fun s edge p i => s.presentPins_of_not_hostMay edge,
    fun s edge p hirq hstep hedge => ⟨s.behindEdge edge p, State.presentPins_inputs_of_edge hirq hstep hedge,
      s.countP_behindEdge edge p, step_presentPins_of_edge hirq hstep hedge⟩,
    fun s edge p hstep => State.presentPins_lost (State.takesEdge_of_stepTaken hstep)⟩
  have hstep := State.stepForEdge_of_nil hnil
  obtain ⟨t, ht⟩ := exec_total (sampleOf s.protocol p.data)
    { s with port := ⟨eventWord 0b001#3 p.data, p.now, false⟩, inputs := [⟨encode i, p.nowNext, false⟩] }
  refine ⟨t, ?_, ht, ?_⟩
  · rw [step_presentPins_of_edge hirq hstep hedge,
      State.behindEdge_of_nil hirq hstep hedge hnil (Pins.hostRequest_of_hostMay hreq hmay)]
    exact ht
  · exact stepRunsTheDecodedInstruction t _ [] i (exec_keeps_inputs ht) rfl (wf_of_hostMay _ hmay) rfl

end Sys2Proof.Machine
end

section
/-! PROOF. Reset and the operations that follow it (70_reset_and_hazards.md R290, R293). -/

namespace Sys2Proof.Machine

/-! ### Every element at its reset value -/

/-- Every element of the block is 0 and the session Idle (70_reset_and_hazards.md R290, 10_state.md R50). -/
abbrev ElementsCleared (t : State) : Prop :=
  DecoderCleared t ∧ t.fo = 0#128 ∧ t.frameValid = false ∧
  t.record.tagId = 0#38 ∧ t.record.countryCode = 0#10 ∧ t.record.dataBlockPresent = false ∧
  t.record.isAnimalApplication = false ∧ (∀ j : Fin 3, t.record.extraData[j] = 0#8) ∧
  t.checksumValid = false ∧ t.emId = 0#40 ∧ t.tagValid = false ∧ t.session = .idle ∧
  t.fieldEn = false ∧ t.irqEn = false ∧ t.startTime = 0#32 ∧ t.endTime = 0#32 ∧ t.duration = 0#32

theorem extraData_zero (j : Fin 3) : TagRecord.zero.extraData[j] = 0#8 := by
  fin_cases j <;> rfl

theorem elementsCleared_resetOf (p : Protocol) : ElementsCleared (State.resetOf p) :=
  ⟨decoderCleared_resetOf p, rfl, rfl, rfl, rfl, rfl, rfl, extraData_zero, rfl, rfl, rfl, rfl, rfl, rfl, rfl, rfl,
    rfl⟩

/-- A reset step differs from the state after reset in the ports alone, which are not the block's elements. -/
theorem State.resetStep_elementsCleared (s : State) : ElementsCleared s.resetStep :=
  elementsCleared_resetOf s.protocol

/-- The step in which `rst` is presented is the reset, whatever else the ports carry. -/
theorem step_of_rst_cons {s : State} {p : PortInput} {rest : List PortInput} (h : s.inputs = p :: rest)
    (hr : p.rst = true) : step s = .next s.fetch.resetStep :=
  step_of_rst (by rw [State.fetch_cons h]; exact hr)

/-- Settles O6: a step with `rst` goes to the state after reset of the build, the ports aside. -/
theorem resetSetsEveryElement : Obligations.ResetSetsEveryElement :=
  ⟨fun s _ _ h hr => ⟨s.fetch.resetStep, step_of_rst_cons h hr, s.fetch.resetStep_elementsCleared,
      s.fetch.resetStep_protocol.trans s.fetch_protocol⟩,
    fun p => ⟨elementsCleared_resetOf p, rfl⟩, elementsCleared_resetOf Config.resetProtocol⟩

/-! ### The first operations -/

/-- The gate of `SAMPLE`, for the row of either build (40_acquisition_fdxb.md R130). -/
theorem exec_sampleOf_of_irqOff {s : State} (h : s.irqEn = false) (p : Protocol) (d : Bool) :
    exec (sampleOf p d) s = .next (s.answer .ignored) := by
  obtain ⟨hfdxb, hem⟩ := sampleIsIgnoredWhileTheInterruptIsOff.1 s d h
  cases p with
  | fdxb => exact hfdxb
  | em4100 => exact hem

/-- Settles O7: the interrupt is off, the mailbox empty and the session Idle, so `SAMPLE`, `FORMAT` and `NOP` only
answer and `ACTIVATE` opens the session; what `DEACTIVATE` would write to the elements stands there already. -/
theorem firstOperationsAfterReset : Obligations.FirstOperationsAfterReset := by
  intro p inp rest s
  refine ⟨rfl, rfl, exec_sampleOf_of_irqOff rfl p, ?format, ?deactivate, exec_nop s,
    s.activate, exec_activate s, s.activate_session, ?activate⟩
  case format => exact congrArg Host.Outcome.next (State.format_of_empty rfl)
  case deactivate =>
    have htag : tag64 s = 0#64 := tag64_of_no_identity rfl
    have helapsed : s.endTime - s.startTime = 0#32 := BitVec.sub_self 0#32
    rw [exec_deactivate, s.deactivate_eq, htag, helapsed]
    rfl
  case activate => rw [State.activate_of_idle rfl, State.answer_result]

end Sys2Proof.Machine
end
